-- ==== Sys2Proof/Word.lean ====
section
/-! DEFINITION. The word types of the engine (00_scope.md R12: bit 0 is the least significant bit,
every value is unsigned) and nothing else: helpers that a test could show wrong stand in
Machine/Bits.lean. -/

namespace Sys2Proof

/-- An 8-bit byte: a host opcode (R97), a memory-control TAP byte (R103), a byte of a device name (R38). -/
abbrev Byte := BitVec 8

/-- A 16-bit half word: the hole of an injected instruction (R106), a size of the identity record (R38). -/
abbrev Half := BitVec 16

/-- A 32-bit word: an operand or result register, a scanned word, an injected instruction. -/
abbrev Word := BitVec 32

end Sys2Proof
end

