-- ==== Sys2Proof/Machine/Bits.lean ====
section
/-! DEFINITION. The bit-field and byte helpers of the spec (00_scope.md R13). -/

namespace Sys2Proof.Bits

/-- `hi16(v) = v[31:16]` (R13). -/
def hi16 (v : Word) : Half := v.extractLsb' 16 16

/-- `lo16(v) = v[15:0]` (R13). -/
def lo16 (v : Word) : Half := v.extractLsb' 0 16

/-- `opcode[bits-1:0]`: the low `bits` bits of a word, zeros above (R28, R133). -/
def lowBits (bits : Nat) (v : Word) : Word := v &&& BitVec.ofNat 32 (2 ^ bits - 1)

/-- A 1-bit value zero-extended to 32 bits (`zext_32(b)`, R13). -/
def bit32 (b : Bool) : Word := if b then 1#32 else 0#32

/-- `a[1:0] = 0`: the alignment of R69. -/
def aligned4 (v : Word) : Bool := v &&& 3#32 == 0#32

/-- The bytes of a value of `n` bytes, the least significant first (the numbering of the opcode table). -/
def bytesLE : (n : Nat) → Nat → List Byte
  | 0, _ => []
  | n + 1, v => BitVec.ofNat 8 v :: bytesLE n (v / 256)

/-- The number a list of bytes stands for, the least significant byte first. -/
def ofBytesLE : List Byte → Nat
  | [] => 0
  | b :: bs => b.toNat + 256 * ofBytesLE bs

end Sys2Proof.Bits
end

