-- ==== Sys2Proof/Syntax.lean ====
section
/-! DEFINITION. The instructions: one constructor for each row of spec/opcode_table.json, in the table's
order, and the formats of 30_encoding.md R90 their words are read in.

A host command (R100) has no operand field: its operands are the registers `S.arg0` to `S.arg2` (R97,
R98). A reserved range keeps the opcode bits its row does not fix. A row of a wire frame, of an injected
word or of a template keeps the bits its row leaves open (R92 to R110). -/

namespace Sys2Proof

inductive Instr where
  -- HOSTCMD: the host opcode map (R100)
  | nop
  | waitReady
  | enterPgmMode
  | exitPgmMode
  | eraseAll
  | assertTargetReset
  | identify
  | programWord
  | readWord
  | verifyWord
  | downloadData
  | flashOperation
  | clearError
  | rawSetMode
  | rawSendCommand
  | rawXferData
  | rawXferFastData
  | rawXferInstruction
  -- HOSTCMD: the reserved opcodes (R111); `low` is what the row's mask leaves open
  | reserved0C (low : BitVec 1)
  | reserved0F
  | reserved15
  | reserved16 (low : BitVec 1)
  | reserved18 (low : BitVec 3)
  | reserved20 (low : BitVec 5)
  | reserved40 (low : BitVec 6)
  | reserved80 (low : BitVec 7)
  -- MODE, IRSCAN, DRSCAN, FDSCAN: the wire frames (R92 to R95)
  | setMode6TapReset
  | sendCommand5 (opcode : BitVec 5)
  | xferData8 (value : Byte)
  | xferData32 (value : Word)
  | xferFastData (value : Word)
  -- TAPIR: the opcodes shifted into the target's TAP instruction register (R102)
  | mtapSwMtap
  | mtapSwEtap
  | mtapCommand
  | etapData
  | etapControl
  | etapEjtagboot
  | etapFastdata
  -- MCHP8: the command bytes of the memory-control TAP (R103)
  | mchpStatus
  | mchpErase
  -- CTRL32: the EJTAG Control words (R104)
  | ctrlResume
  | ctrlProceed
  -- MIPS32I: the forms of an injected word (R105)
  | lui (rt : BitVec 5) (imm : Half)
  | ori (rt rs : BitVec 5) (imm : Half)
  | andi (rt rs : BitVec 5) (imm : Half)
  | sw (rt : BitVec 5) (imm : Half) (rs : BitVec 5)
  | lw (rt : BitVec 5) (imm : Half) (rs : BitVec 5)
  | bne (rs rt : BitVec 5) (imm : Half)
  | mipsNop
  -- MIPS32I: template PRE (R107)
  | preP0
  | preP1
  -- MIPS32I: template DL (R108)
  | dlD0
  | dlD1 (hole : Half)
  | dlD2 (hole : Half)
  | dlD3 (hole : Half)
  | dlD4
  -- MIPS32I: template FO (R109)
  | foF0
  | foF1
  | foF2 (hole : Half)
  | foF3 (hole : Half)
  | foF4
  | foF5 (hole : Half)
  | foF6
  | foF7 (op : BitVec 4)
  | foF8
  | foF9
  | foF10
  | foF11
  | foF12
  | foF13
  | foF14
  | foF15
  | foF16
  | foF17
  | foF18
  | foF19
  | foF20
  | foF21
  | foF22
  | foF23
  | foF24
  | foF25
  | foF26
  | foF27
  | foF28
  | foF29
  -- MIPS32I: template RD (R110)
  | rdA0
  | rdA1 (hole : Half)
  | rdA2 (hole : Half)
  | rdA3
  | rdA4
  -- HOSTRSP: the response codes (R101)
  | rspOk
  | rspBusTimeout
  | rspProtocolFraming
  | rspNvmControllerError
  | rspDeviceUnidentified
  | rspVerifyMismatch
  | rspIllegalState
  | rspBadArgument
  | rspSessionFatal
  | rspUnknownOpcode
  deriving DecidableEq, Repr

/-- The format a word is read in (R90). The opcode table's rows overlap across formats (host opcode 0x04
and TAP opcode 0x04 are the same bits), so a word means something only in a format. The rows of the
injected-program templates are read by their place: R60 addresses the INJ table by sequence name and
index. -/
inductive Format where
  | hostcmd
  | hostrsp
  | mode
  | irscan
  | drscan8
  | drscan32
  | fdscan
  | tapir
  | mchp8
  | ctrl32
  | mips32i
  | injPre (index : Fin 2)
  | injDl (index : Fin 5)
  | injFo (index : Fin 30)
  | injRd (index : Fin 5)
  deriving DecidableEq, Repr

end Sys2Proof
end

