-- ==== Sys2Proof/WellFormed.lean ====
section
/-! DEFINITION. Which terms of `Instr` the spec's encodings admit. A host command, a wire frame, a general
MIPS32I form and a word without a hole are always well formed (R92 to R105: every value of a field is
legal); the holes of the templates are not free. -/

namespace Sys2Proof

/-- `ramAddr` in a hole: a multiple of 4 from 0 to 0x7FFC (R65, R108, R109). -/
def ramHoleOk (hole : Half) : Bool := hole &&& 3#16 == 0#16 && hole ≤ 0x7FFC#16

/-- The low half of a flash address or of a load address: a multiple of 4 (R69). -/
def alignedHoleOk (hole : Half) : Bool := hole &&& 3#16 == 0#16

/-- The high half of `addr | KSEG1_OR` (R110): bits 15 and 13 are set. -/
def ksegHoleOk (hole : Half) : Bool := hole &&& 0xA000#16 == 0xA000#16

/-- One of the four NVM operation codes (R113). -/
def nvmOpOk (op : BitVec 4) : Bool := op == 1#4 || op == 3#4 || op == 4#4 || op == 5#4

/-- The checks on an instruction's operands. -/
def Instr.wellFormed : Instr → Bool
  | .dlD3 hole => ramHoleOk hole
  | .foF3 hole => alignedHoleOk hole
  | .foF5 hole => ramHoleOk hole
  | .foF7 op => nvmOpOk op
  | .rdA1 hole => ksegHoleOk hole
  | .rdA2 hole => alignedHoleOk hole
  | _ => true

end Sys2Proof
end

