-- ==== Sys2Proof/Decode.lean ====
section
/-! DEFINITION. The decoder, total on any bytes and rejecting by name, and after it the encoder, both
written from 30_encoding.md R92 to R113 and spec/opcode_table.json, each with its own copy of the codes.

A word means something only in a format (R90): the decoder takes the format with the bytes. Bytes are
laid out least significant first, as the opcode table numbers its bits (notes/assumptions/3.md). -/

namespace Sys2Proof

/-- How many bytes a word of the format takes: its bits (R91 to R105) rounded up to whole bytes. -/
def formatBytes : Format → Nat
  | .hostcmd | .hostrsp | .mode | .tapir | .mchp8 => 1
  | .irscan | .drscan8 => 2
  | .ctrl32 | .mips32i | .injPre _ | .injDl _ | .injFo _ | .injRd _ => 4
  | .drscan32 | .fdscan => 5

/-- Why bytes are no instruction. -/
inductive DecodeError where
  /-- fewer bytes than a word of the format has -/
  | truncated (format : Format)
  /-- no row of the opcode table has these bits in this format -/
  | noSuchWord (format : Format)
  /-- a row has these bits, but not an operand the spec admits for it (`WellFormed`) -/
  | illFormed (format : Format)
  deriving DecidableEq, Repr

/-- HOSTCMD (R100, R111): every opcode byte is exactly one row. -/
def decodeHost (b : Byte) : Instr :=
  match b.toNat with
  | 0x00 => .nop
  | 0x01 => .waitReady
  | 0x02 => .enterPgmMode
  | 0x03 => .exitPgmMode
  | 0x04 => .eraseAll
  | 0x05 => .assertTargetReset
  | 0x06 => .identify
  | 0x07 => .programWord
  | 0x08 => .readWord
  | 0x09 => .verifyWord
  | 0x0A => .downloadData
  | 0x0B => .flashOperation
  | 0x0E => .clearError
  | 0x10 => .rawSetMode
  | 0x11 => .rawSendCommand
  | 0x12 => .rawXferData
  | 0x13 => .rawXferFastData
  | 0x14 => .rawXferInstruction
  | 0x0F => .reserved0F
  | 0x15 => .reserved15
  | _ =>
    if b &&& 0xFE#8 = 0x0C#8 then .reserved0C (b.setWidth 1)
    else if b &&& 0xFE#8 = 0x16#8 then .reserved16 (b.setWidth 1)
    else if b &&& 0xF8#8 = 0x18#8 then .reserved18 (b.setWidth 3)
    else if b &&& 0xE0#8 = 0x20#8 then .reserved20 (b.setWidth 5)
    else if b &&& 0xC0#8 = 0x40#8 then .reserved40 (b.setWidth 6)
    else .reserved80 (b.setWidth 7)

/-- HOSTRSP (R101): the response code in bits [3:0], the bits above zero (R45). -/
def decodeHostRsp (w : BitVec 40) : Option Instr :=
  match w.toNat with
  | 0x0 => some .rspOk
  | 0x1 => some .rspBusTimeout
  | 0x2 => some .rspProtocolFraming
  | 0x3 => some .rspNvmControllerError
  | 0x4 => some .rspDeviceUnidentified
  | 0x5 => some .rspVerifyMismatch
  | 0x8 => some .rspIllegalState
  | 0x9 => some .rspBadArgument
  | 0xA => some .rspSessionFatal
  | 0xB => some .rspUnknownOpcode
  | _ => none

/-- TAPIR (R102): the five opcode bits, the bits above zero. -/
def decodeTapIr (w : BitVec 40) : Option Instr :=
  match w.toNat with
  | 0x4 => some .mtapSwMtap
  | 0x5 => some .mtapSwEtap
  | 0x7 => some .mtapCommand
  | 0x9 => some .etapData
  | 0xA => some .etapControl
  | 0xC => some .etapEjtagboot
  | 0xE => some .etapFastdata
  | _ => none

/-- MCHP8 (R103). -/
def decodeMchp8 (w : BitVec 40) : Option Instr :=
  match w.toNat with
  | 0x0 => some .mchpStatus
  | 0xFC => some .mchpErase
  | _ => none

/-- CTRL32 (R104). -/
def decodeCtrl32 (w : BitVec 40) : Option Instr :=
  if w = 0x0004C000#40 then some .ctrlResume
  else if w = 0x0000C000#40 then some .ctrlProceed
  else none

/-- MODE (R92): the one mode word of the table, `SetMode(6, 0x1F)`, whose TDI bits are all 0. -/
def decodeMode (w : BitVec 40) : Option Instr :=
  if w = 0#40 then some .setMode6TapReset else none

/-- IRSCAN (R93) of five bits: TDI bit `i` is that of pulse `i`; the opcode stands on pulses 4 to 8. -/
def decodeIrScan (w : BitVec 40) : Option Instr :=
  if w &&& ~~~0x1F0#40 = 0#40 then some (.sendCommand5 (w.extractLsb' 4 5)) else none

/-- DRSCAN (R94) of eight bits: the value stands on pulses 3 to 10. -/
def decodeDrScan8 (w : BitVec 40) : Option Instr :=
  if w &&& ~~~0x7F8#40 = 0#40 then some (.xferData8 (w.extractLsb' 3 8)) else none

/-- DRSCAN (R94) of 32 bits: the value stands on pulses 3 to 34. -/
def decodeDrScan32 (w : BitVec 40) : Option Instr :=
  if w &&& ~~~0x7FFFFFFF8#40 = 0#40 then some (.xferData32 (w.extractLsb' 3 32)) else none

/-- FDSCAN (R95): the value stands on pulses 4 to 35. -/
def decodeFdScan (w : BitVec 40) : Option Instr :=
  if w &&& ~~~0xFFFFFFFF0#40 = 0#40 then some (.xferFastData (w.extractLsb' 4 32)) else none

/-- The rt field of an injected word (R105). -/
def rtField (w : BitVec 40) : BitVec 5 := w.extractLsb' 16 5

/-- The rs (base) field of an injected word (R105). -/
def rsField (w : BitVec 40) : BitVec 5 := w.extractLsb' 21 5

/-- The immediate field of an injected word (R105), which is also the hole of a template word (R106). -/
def immField (w : BitVec 40) : Half := w.extractLsb' 0 16

/-- MIPS32I (R105): the seven forms by their major opcode, bits [31:26]. -/
def decodeMips (w : BitVec 40) : Option Instr :=
  match (w.extractLsb' 26 6).toNat with
  | 0x0F => if rsField w = 0#5 then some (.lui (rtField w) (immField w)) else none
  | 0x0D => some (.ori (rtField w) (rsField w) (immField w))
  | 0x0C => some (.andi (rtField w) (rsField w) (immField w))
  | 0x2B => some (.sw (rtField w) (immField w) (rsField w))
  | 0x23 => some (.lw (rtField w) (immField w) (rsField w))
  | 0x05 => some (.bne (rsField w) (rtField w) (immField w))
  | 0x00 => if w = 0#40 then some .mipsNop else none
  | _ => none

/-- A template word with no hole. -/
def fixedWord (w : BitVec 40) (word : BitVec 40) (i : Instr) : Option Instr :=
  if w = word then some i else none

/-- A template word with the 16-bit hole of R106. -/
def holedWord (w : BitVec 40) (word : BitVec 40) (i : Half → Instr) : Option Instr :=
  if w &&& 0xFFFF0000#40 = word then some (i (immField w)) else none

/-- Template PRE (R107). -/
def decodePre (index : Nat) (w : BitVec 40) : Option Instr :=
  match index with
  | 0 => fixedWord w 0x3C04BF80#40 .preP0
  | 1 => fixedWord w 0x3484F400#40 .preP1
  | _ => none

/-- Template DL (R108). -/
def decodeDl (index : Nat) (w : BitVec 40) : Option Instr :=
  match index with
  | 0 => fixedWord w 0x3C10A000#40 .dlD0
  | 1 => holedWord w 0x3C080000#40 .dlD1
  | 2 => holedWord w 0x35080000#40 .dlD2
  | 3 => holedWord w 0xAE080000#40 .dlD3
  | 4 => fixedWord w 0xAC880030#40 .dlD4
  | _ => none

/-- Template FO (R109), with SETTLE_NOPS = 4. -/
def decodeFo (index : Nat) (w : BitVec 40) : Option Instr :=
  match index with
  | 0 => fixedWord w 0x3C04BF80#40 .foF0
  | 1 => fixedWord w 0x3484F400#40 .foF1
  | 2 => holedWord w 0x3C080000#40 .foF2
  | 3 => holedWord w 0x35080000#40 .foF3
  | 4 => fixedWord w 0xAC880020#40 .foF4
  | 5 => holedWord w 0x34080000#40 .foF5
  | 6 => fixedWord w 0xAC880040#40 .foF6
  | 7 => if w &&& 0xFFFFFFF0#40 = 0x34084000#40 then some (.foF7 (w.extractLsb' 0 4)) else none
  | 8 => fixedWord w 0xAC880000#40 .foF8
  | 9 => fixedWord w 0x3C08AA99#40 .foF9
  | 10 => fixedWord w 0x35086655#40 .foF10
  | 11 => fixedWord w 0x3C095566#40 .foF11
  | 12 => fixedWord w 0x352999AA#40 .foF12
  | 13 => fixedWord w 0x340A8000#40 .foF13
  | 14 => fixedWord w 0xAC880010#40 .foF14
  | 15 => fixedWord w 0xAC890010#40 .foF15
  | 16 => fixedWord w 0xAC8A0008#40 .foF16
  | 17 => fixedWord w 0x8C880000#40 .foF17
  | 18 => fixedWord w 0x31088000#40 .foF18
  | 19 => fixedWord w 0x1500FFFD#40 .foF19
  | 20 => fixedWord w 0x00000000#40 .foF20
  | 21 => fixedWord w 0x00000000#40 .foF21
  | 22 => fixedWord w 0x00000000#40 .foF22
  | 23 => fixedWord w 0x00000000#40 .foF23
  | 24 => fixedWord w 0x00000000#40 .foF24
  | 25 => fixedWord w 0x34084000#40 .foF25
  | 26 => fixedWord w 0xAC880004#40 .foF26
  | 27 => fixedWord w 0x8C880000#40 .foF27
  | 28 => fixedWord w 0x3C13FF20#40 .foF28
  | 29 => fixedWord w 0xAE680000#40 .foF29
  | _ => none

/-- Template RD (R110). -/
def decodeRd (index : Nat) (w : BitVec 40) : Option Instr :=
  match index with
  | 0 => fixedWord w 0x3C13FF20#40 .rdA0
  | 1 => holedWord w 0x3C080000#40 .rdA1
  | 2 => holedWord w 0x35080000#40 .rdA2
  | 3 => fixedWord w 0x8D090000#40 .rdA3
  | 4 => fixedWord w 0xAE690000#40 .rdA4
  | _ => none

/-- The row a word has in a format, its operands not yet checked. -/
def decodeRow (format : Format) (w : BitVec 40) : Option Instr :=
  match format with
  | .hostcmd => some (decodeHost (w.setWidth 8))
  | .hostrsp => decodeHostRsp w
  | .mode => decodeMode w
  | .irscan => decodeIrScan w
  | .drscan8 => decodeDrScan8 w
  | .drscan32 => decodeDrScan32 w
  | .fdscan => decodeFdScan w
  | .tapir => decodeTapIr w
  | .mchp8 => decodeMchp8 w
  | .ctrl32 => decodeCtrl32 w
  | .mips32i => decodeMips w
  | .injPre k => decodePre k.val w
  | .injDl k => decodeDl k.val w
  | .injFo k => decodeFo k.val w
  | .injRd k => decodeRd k.val w

/-- The instruction of one word of a format, checked. -/
def decodeWord (format : Format) (w : BitVec 40) : Except DecodeError Instr :=
  match decodeRow format w with
  | some i => if i.wellFormed then .ok i else .error (.illFormed format)
  | none => .error (.noSuchWord format)

/-- Decode the first word of `bytes` in a format: the instruction and the bytes after it. -/
def decode (format : Format) (bytes : List Byte) : Except DecodeError (Instr × List Byte) :=
  if bytes.length < formatBytes format then .error (.truncated format)
  else
    match decodeWord format
        (BitVec.ofNat 40 (Bits.ofBytesLE (bytes.take (formatBytes format)))) with
    | .ok i => .ok (i, bytes.drop (formatBytes format))
    | .error e => .error e

/-- The format an instruction's word is read in. -/
def formatOf : Instr → Format
  | .nop => .hostcmd
  | .waitReady => .hostcmd
  | .enterPgmMode => .hostcmd
  | .exitPgmMode => .hostcmd
  | .eraseAll => .hostcmd
  | .assertTargetReset => .hostcmd
  | .identify => .hostcmd
  | .programWord => .hostcmd
  | .readWord => .hostcmd
  | .verifyWord => .hostcmd
  | .downloadData => .hostcmd
  | .flashOperation => .hostcmd
  | .clearError => .hostcmd
  | .rawSetMode => .hostcmd
  | .rawSendCommand => .hostcmd
  | .rawXferData => .hostcmd
  | .rawXferFastData => .hostcmd
  | .rawXferInstruction => .hostcmd
  | .reserved0C _ => .hostcmd
  | .reserved0F => .hostcmd
  | .reserved15 => .hostcmd
  | .reserved16 _ => .hostcmd
  | .reserved18 _ => .hostcmd
  | .reserved20 _ => .hostcmd
  | .reserved40 _ => .hostcmd
  | .reserved80 _ => .hostcmd
  | .setMode6TapReset => .mode
  | .sendCommand5 _ => .irscan
  | .xferData8 _ => .drscan8
  | .xferData32 _ => .drscan32
  | .xferFastData _ => .fdscan
  | .mtapSwMtap => .tapir
  | .mtapSwEtap => .tapir
  | .mtapCommand => .tapir
  | .etapData => .tapir
  | .etapControl => .tapir
  | .etapEjtagboot => .tapir
  | .etapFastdata => .tapir
  | .mchpStatus => .mchp8
  | .mchpErase => .mchp8
  | .ctrlResume => .ctrl32
  | .ctrlProceed => .ctrl32
  | .lui _ _ => .mips32i
  | .ori _ _ _ => .mips32i
  | .andi _ _ _ => .mips32i
  | .sw _ _ _ => .mips32i
  | .lw _ _ _ => .mips32i
  | .bne _ _ _ => .mips32i
  | .mipsNop => .mips32i
  | .preP0 => .injPre 0
  | .preP1 => .injPre 1
  | .dlD0 => .injDl 0
  | .dlD1 _ => .injDl 1
  | .dlD2 _ => .injDl 2
  | .dlD3 _ => .injDl 3
  | .dlD4 => .injDl 4
  | .foF0 => .injFo 0
  | .foF1 => .injFo 1
  | .foF2 _ => .injFo 2
  | .foF3 _ => .injFo 3
  | .foF4 => .injFo 4
  | .foF5 _ => .injFo 5
  | .foF6 => .injFo 6
  | .foF7 _ => .injFo 7
  | .foF8 => .injFo 8
  | .foF9 => .injFo 9
  | .foF10 => .injFo 10
  | .foF11 => .injFo 11
  | .foF12 => .injFo 12
  | .foF13 => .injFo 13
  | .foF14 => .injFo 14
  | .foF15 => .injFo 15
  | .foF16 => .injFo 16
  | .foF17 => .injFo 17
  | .foF18 => .injFo 18
  | .foF19 => .injFo 19
  | .foF20 => .injFo 20
  | .foF21 => .injFo 21
  | .foF22 => .injFo 22
  | .foF23 => .injFo 23
  | .foF24 => .injFo 24
  | .foF25 => .injFo 25
  | .foF26 => .injFo 26
  | .foF27 => .injFo 27
  | .foF28 => .injFo 28
  | .foF29 => .injFo 29
  | .rdA0 => .injRd 0
  | .rdA1 _ => .injRd 1
  | .rdA2 _ => .injRd 2
  | .rdA3 => .injRd 3
  | .rdA4 => .injRd 4
  | .rspOk => .hostrsp
  | .rspBusTimeout => .hostrsp
  | .rspProtocolFraming => .hostrsp
  | .rspNvmControllerError => .hostrsp
  | .rspDeviceUnidentified => .hostrsp
  | .rspVerifyMismatch => .hostrsp
  | .rspIllegalState => .hostrsp
  | .rspBadArgument => .hostrsp
  | .rspSessionFatal => .hostrsp
  | .rspUnknownOpcode => .hostrsp

/-- The bits of an instruction's word, bit 0 the first on the wire. A hole is combined with the template's
constant by bitwise OR (R106); a frame's bits are its TDI row (R92 to R95). -/
def code : Instr → BitVec 40
  | .nop => 0x00#40
  | .waitReady => 0x01#40
  | .enterPgmMode => 0x02#40
  | .exitPgmMode => 0x03#40
  | .eraseAll => 0x04#40
  | .assertTargetReset => 0x05#40
  | .identify => 0x06#40
  | .programWord => 0x07#40
  | .readWord => 0x08#40
  | .verifyWord => 0x09#40
  | .downloadData => 0x0A#40
  | .flashOperation => 0x0B#40
  | .clearError => 0x0E#40
  | .rawSetMode => 0x10#40
  | .rawSendCommand => 0x11#40
  | .rawXferData => 0x12#40
  | .rawXferFastData => 0x13#40
  | .rawXferInstruction => 0x14#40
  | .reserved0C low => 0x0C#40 ||| low.setWidth 40
  | .reserved0F => 0x0F#40
  | .reserved15 => 0x15#40
  | .reserved16 low => 0x16#40 ||| low.setWidth 40
  | .reserved18 low => 0x18#40 ||| low.setWidth 40
  | .reserved20 low => 0x20#40 ||| low.setWidth 40
  | .reserved40 low => 0x40#40 ||| low.setWidth 40
  | .reserved80 low => 0x80#40 ||| low.setWidth 40
  | .setMode6TapReset => 0#40
  | .sendCommand5 opcode => opcode.setWidth 40 <<< 4
  | .xferData8 value => value.setWidth 40 <<< 3
  | .xferData32 value => value.setWidth 40 <<< 3
  | .xferFastData value => value.setWidth 40 <<< 4
  | .mtapSwMtap => 0x04#40
  | .mtapSwEtap => 0x05#40
  | .mtapCommand => 0x07#40
  | .etapData => 0x09#40
  | .etapControl => 0x0A#40
  | .etapEjtagboot => 0x0C#40
  | .etapFastdata => 0x0E#40
  | .mchpStatus => 0x00#40
  | .mchpErase => 0xFC#40
  | .ctrlResume => 0x0004C000#40
  | .ctrlProceed => 0x0000C000#40
  | .lui rt imm => 0x3C000000#40 ||| imm.setWidth 40 ||| rt.setWidth 40 <<< 16
  | .ori rt rs imm => 0x34000000#40 ||| imm.setWidth 40 ||| rt.setWidth 40 <<< 16 ||| rs.setWidth 40 <<< 21
  | .andi rt rs imm => 0x30000000#40 ||| imm.setWidth 40 ||| rt.setWidth 40 <<< 16 ||| rs.setWidth 40 <<< 21
  | .sw rt imm rs => 0xAC000000#40 ||| imm.setWidth 40 ||| rt.setWidth 40 <<< 16 ||| rs.setWidth 40 <<< 21
  | .lw rt imm rs => 0x8C000000#40 ||| imm.setWidth 40 ||| rt.setWidth 40 <<< 16 ||| rs.setWidth 40 <<< 21
  | .bne rs rt imm => 0x14000000#40 ||| imm.setWidth 40 ||| rs.setWidth 40 <<< 21 ||| rt.setWidth 40 <<< 16
  | .mipsNop => 0x00000000#40
  | .preP0 => 0x3C04BF80#40
  | .preP1 => 0x3484F400#40
  | .dlD0 => 0x3C10A000#40
  | .dlD1 hole => 0x3C080000#40 ||| hole.setWidth 40
  | .dlD2 hole => 0x35080000#40 ||| hole.setWidth 40
  | .dlD3 hole => 0xAE080000#40 ||| hole.setWidth 40
  | .dlD4 => 0xAC880030#40
  | .foF0 => 0x3C04BF80#40
  | .foF1 => 0x3484F400#40
  | .foF2 hole => 0x3C080000#40 ||| hole.setWidth 40
  | .foF3 hole => 0x35080000#40 ||| hole.setWidth 40
  | .foF4 => 0xAC880020#40
  | .foF5 hole => 0x34080000#40 ||| hole.setWidth 40
  | .foF6 => 0xAC880040#40
  | .foF7 op => 0x34084000#40 ||| op.setWidth 40
  | .foF8 => 0xAC880000#40
  | .foF9 => 0x3C08AA99#40
  | .foF10 => 0x35086655#40
  | .foF11 => 0x3C095566#40
  | .foF12 => 0x352999AA#40
  | .foF13 => 0x340A8000#40
  | .foF14 => 0xAC880010#40
  | .foF15 => 0xAC890010#40
  | .foF16 => 0xAC8A0008#40
  | .foF17 => 0x8C880000#40
  | .foF18 => 0x31088000#40
  | .foF19 => 0x1500FFFD#40
  | .foF20 => 0x00000000#40
  | .foF21 => 0x00000000#40
  | .foF22 => 0x00000000#40
  | .foF23 => 0x00000000#40
  | .foF24 => 0x00000000#40
  | .foF25 => 0x34084000#40
  | .foF26 => 0xAC880004#40
  | .foF27 => 0x8C880000#40
  | .foF28 => 0x3C13FF20#40
  | .foF29 => 0xAE680000#40
  | .rdA0 => 0x3C13FF20#40
  | .rdA1 hole => 0x3C080000#40 ||| hole.setWidth 40
  | .rdA2 hole => 0x35080000#40 ||| hole.setWidth 40
  | .rdA3 => 0x8D090000#40
  | .rdA4 => 0xAE690000#40
  | .rspOk => 0x0#40
  | .rspBusTimeout => 0x1#40
  | .rspProtocolFraming => 0x2#40
  | .rspNvmControllerError => 0x3#40
  | .rspDeviceUnidentified => 0x4#40
  | .rspVerifyMismatch => 0x5#40
  | .rspIllegalState => 0x8#40
  | .rspBadArgument => 0x9#40
  | .rspSessionFatal => 0xA#40
  | .rspUnknownOpcode => 0xB#40

/-- The bytes of an instruction's word, least significant first. -/
def encode (i : Instr) : List Byte := Bits.bytesLE (formatBytes (formatOf i)) (code i).toNat

/-- The 32-bit word of an instruction: what the engine shifts out for an injected word (R105 to R110) or a
Control word (R104), the opcode for a TAPIR row (R102), the byte for an MCHP8 row (R103). -/
def wordOf (i : Instr) : Word := (code i).setWidth 32

/-- The template places a 32-bit word may have, those without a hole first (R107 to R110). -/
def templatePlaces : List Format :=
  List.flatten
    [List.map Format.injPre [0, 1],
     List.map Format.injDl [0, 4],
     List.map Format.injFo
       [0, 1, 4, 6, 8, 9, 10, 11, 12, 13, 14, 15, 16, 17, 18, 19, 20, 21, 22, 23, 24, 25, 26, 27, 28, 29],
     List.map Format.injRd [0, 3, 4],
     List.map Format.injFo [7],
     List.map Format.injDl [1, 2, 3],
     List.map Format.injFo [2, 3, 5],
     List.map Format.injRd [1, 2]]

/-- The formats a bare word of `nbits` bits could be read in, in the order they are tried
(notes/assumptions/3.md): an exact width names its format, and where the table's rows share a width in
whole bytes the host command comes first, a fully fixed word before one with a hole, and a template place
before the general MIPS32I form. -/
def tableFormats (nbits w : Nat) : List Format :=
  match nbits with
  | 4 => [.hostrsp]
  | 5 => [.tapir]
  | 6 => [.mode]
  | 8 => [.hostcmd]
  | 11 => [.irscan]
  | 13 => [.drscan8]
  | 16 => [.irscan, .drscan8]
  | 32 => if w = 0 then [.mips32i] else .ctrl32 :: (templatePlaces ++ [Format.mips32i])
  | 37 => [.drscan32]
  | 38 => [.fdscan]
  | 40 => [.drscan32, .fdscan]
  | _ => []

/-- The bytes of a bare word in a format, the bits above `nbits` zero. -/
def tableBytes (format : Format) (nbits w : Nat) : List Byte :=
  Bits.bytesLE (formatBytes format) (w % 2 ^ nbits)

/-- The first of the formats in which the bare word decodes, with its instruction. -/
def firstFormat (nbits w : Nat) : List Format → Option (Format × Instr)
  | [] => none
  | f :: fs =>
    match decode f (tableBytes f nbits w) with
    | .ok (i, _) => some (f, i)
    | .error _ => firstFormat nbits w fs

/-- The instruction the decoder reads from a bare word of the opcode table: `nbits` bits `w`, bit 0 the
least significant. -/
def decodeTableWord (nbits w : Nat) : Option Instr :=
  (firstFormat nbits w (tableFormats nbits w)).map (·.2)

end Sys2Proof
end

