-- ==== Sys2Proof/Config.lean ====
section
/-! DEFINITION. What the engine does not decide itself: the free TDO samples of its environment and the
shape of a catalog record. The fixed parameters of 00_scope.md R10 stand in Machine/Params.lean, where a
repair can mend them. -/

namespace Sys2Proof

/-- The `k`-th TDO sample of a run, where the host of the model has laid out no answer for it
(`Machine.TapSession.tdoIn`). FREE VALUE: R8 and R21 make every sample "a free input (an oracle draw)
under no law", so this constant has no body and no proof can know a value of it
(notes/assumptions/1.md). Safe. -/
opaque Config.tdoSample : Nat → Bool

/-- One Device Identity Record of the catalog (10_state.md R40): identifier word, twelve name bytes,
NVM row size in words, boot-flash and program-flash size in KB. -/
structure DeviceRecord where
  id       : Word
  name     : Vector Byte 12
  rowWords : Half
  bfmKB    : Half
  pfmKB    : Half
  deriving DecidableEq, Repr

end Sys2Proof
end

