-- ==== Sys2Proof/Machine/Params.lean ====
section
/-! DEFINITION. The implementation parameters of 00_scope.md R10, each under its name there in
lower camel case with the value that rule fixes, and the catalog of R11. -/

namespace Sys2Proof.Param

/-- WIDTH_MAX: the largest transfer width in bits. -/
def widthMax : Nat := 32
/-- IR_BITS: the width of every TAP instruction-register scan. -/
def irBits : Nat := 5
/-- MCHP_BITS: the width of the memory-control TAP's command and status register. -/
def mchpBits : Nat := 8
/-- DATA_BITS: the width of an injected instruction and of the EJTAG Control and Data registers. -/
def dataBits : Nat := 32
/-- TAP_RESET_BITS: the width of the TAP reset mode word. -/
def tapResetBits : Nat := 6
/-- TAP_RESET_WORD: five pulses high, one low. -/
def tapResetWord : Word := 0x1F#32
/-- MTAP_SW_MTAP: select the memory-control TAP. -/
def mtapSwMtap : Word := 0x04#32
/-- MTAP_SW_ETAP: select the execution TAP. -/
def mtapSwEtap : Word := 0x05#32
/-- MTAP_COMMAND: address the memory-control TAP's command and status register. -/
def mtapCommand : Word := 0x07#32
/-- ETAP_DATA: address the EJTAG Data register. -/
def etapData : Word := 0x09#32
/-- ETAP_CONTROL: address the EJTAG Control register. -/
def etapControl : Word := 0x0A#32
/-- ETAP_EJTAGBOOT: the vendor's boot command. -/
def etapEjtagboot : Word := 0x0C#32
/-- ETAP_FASTDATA: address the fast-data register. -/
def etapFastdata : Word := 0x0E#32
/-- MCHP_STATUS: no operation, return status. -/
def mchpStatus : Word := 0x00#32
/-- MCHP_ERASE: bulk erase. -/
def mchpErase : Word := 0xFC#32
/-- STATUS_READY_BIT. -/
def statusReadyBit : Nat := 3
/-- STATUS_BUSY_BIT. -/
def statusBusyBit : Nat := 2
/-- CTRL_RESUME: the Control word shifted while polling. -/
def ctrlResume : Word := 0x0004C000#32
/-- CTRL_PROCEED: the Control word shifted after the instruction. -/
def ctrlProceed : Word := 0x0000C000#32
/-- CTRL_PRACC_BIT: the ready bit of the Control word shifted out. -/
def ctrlPraccBit : Nat := 18
/-- PRACC_POLL_MAX: most Control polls of one injection. -/
def praccPollMax : Nat := 100
/-- PRACC_POLL_DELAY_MS: delay between Control polls; 0 emits no Sleep event. -/
def praccPollDelayMs : Nat := 0
/-- STATUS_POLL_MAX: most status polls of CheckStatus or Erase. -/
def statusPollMax : Nat := 100
/-- STATUS_POLL_DELAY_MS: delay between status polls. -/
def statusPollDelayMs : Nat := 10
/-- BOOT_SETTLE_MS: delay after releasing target reset in EnterPgmMode. -/
def bootSettleMs : Nat := 10
/-- RESET_PULSE_MS: length of the reset pulse in ExitPgmMode. -/
def resetPulseMs : Nat := 10
/-- RST_ACTIVE_LEVEL: the level of the reset line while target reset is asserted (0). -/
def rstActiveLevel : Bool := false
/-- TCK_IDLE_LEVEL: the level of the clock line between pulses (1). -/
def tckIdleLevel : Bool := true
/-- PFM_BASE: first byte address of program flash. -/
def pfmBase : Word := 0x1D000000#32
/-- BFM_BASE: first byte address of boot flash. -/
def bfmBase : Word := 0x1FC00000#32
/-- CFG_BYTES: size of the configuration memory at the top of boot flash. -/
def cfgBytes : Word := 16#32
/-- KSEG1_OR: the OR-mask of the target's uncached window. -/
def kseg1Or : Word := 0xA0000000#32
/-- The largest legal `ramAddr` (R65). -/
def ramAddrMax : Word := 0x7FFC#32
/-- DEVID_ADDR: address of the identifier word. -/
def devidAddr : Word := 0xBF80F220#32
/-- ID_MASK: mask applied to the identifier word before lookup. -/
def idMask : Word := 0x0FFFFFFF#32
/-- NVMOP_WRITE_WORD. -/
def nvmopWriteWord : Word := 0x1#32
/-- NVMOP_WRITE_ROW. -/
def nvmopWriteRow : Word := 0x3#32
/-- NVMOP_ERASE_PAGE. -/
def nvmopErasePage : Word := 0x4#32
/-- NVMOP_ERASE_ALL. -/
def nvmopEraseAll : Word := 0x5#32
/-- NVM_WR: the control register's busy bit. -/
def nvmWr : Word := 0x8000#32
/-- NVM_ERR_MASK: the control register's error bits. -/
def nvmErrMask : Word := 0x3000#32
/-- SETTLE_NOPS: no-operation words injected after the busy poll. -/
def settleNops : Nat := 4
/-- NVM_RETRY_MAX: retries of one failed NVM operation. -/
def nvmRetryMax : Nat := 1
/-- SCRATCH_OFF: the scratch RAM offset programWord uses. -/
def scratchOff : Word := 0#32
/-- PAGE_ROWS: rows per page. -/
def pageRows : Word := 8#32
/-- WORD_BYTES: bytes per word. -/
def wordBytes : Word := 4#32
/-- KB: bytes per catalog size unit. -/
def kb : Word := 1024#32

/-- The name bytes of the source's one record, "210F016B" padded with zero bytes (R38, R11). -/
def name210F016B : Vector Byte 12 :=
  #v[0x32#8, 0x31#8, 0x30#8, 0x46#8, 0x30#8, 0x31#8, 0x36#8, 0x42#8, 0#8, 0#8, 0#8, 0#8]

/-- The value R11 fixes for CATALOG: the source's one record, then the sentinel whose id is 0. A machine may
have another catalog (`State.catalog`). -/
def catalog : List DeviceRecord :=
  [⟨0x04A01053#32, name210F016B, 32#16, 3#16, 16#16⟩,
   ⟨0#32, Vector.replicate 12 0#8, 0#16, 0#16, 0#16⟩]

end Sys2Proof.Param
end

