-- ==== Sys2Proof/Machine/State.lean ====
section
/-! DEFINITION. The state of the engine as plain data: every field of 10_state.md R21 to R38 and R45, and
the model's own fields for its environment (the TDO answers, the output trace, the host's pending
requests), with the reasons a step can stop and the state after reset (R50, R281). -/

namespace Sys2Proof.Machine

/-- The five lines between engine and target (R22). -/
inductive Line where
  | tms | tdi | tdo | tck | rst
  deriving DecidableEq, Repr

/-- The direction of a line (R22). -/
inductive Dir where
  | output | input
  deriving DecidableEq, Repr

/-- One event of the output trace (R22); `true` is level 1. -/
inductive Event where
  | config (line : Line) (dir : Dir)
  | drive (line : Line) (level : Bool)
  | read (level : Bool)
  | sleep (ms : Nat)
  deriving DecidableEq, Repr

/-- The shadow of the target's TAP controller (R25): sixteen known states, and unknown. -/
inductive TapState where
  | testLogicReset | runTestIdle
  | selectDR | captureDR | shiftDR | exit1DR | pauseDR | exit2DR | updateDR
  | selectIR | captureIR | shiftIR | exit1IR | pauseIR | exit2IR | updateIR
  | unknownTap
  deriving DecidableEq, Repr

/-- Which target TAP is selected (R29). -/
inductive TapSel where
  | unknownSel | mtap | etap
  deriving DecidableEq, Repr

/-- The device-control state `S.dev` (R35). -/
inductive DevState where
  | unknown | mtapSelected | debugMode | reset
  deriving DecidableEq, Repr

/-- The pin registers (R23): the levels last driven on TMS, TDI and TCK, and target reset as a logical
value (`true`: asserted). -/
structure Pins where
  tms : Bool
  tdi : Bool
  tck : Bool
  rst : Bool
  deriving DecidableEq, Repr

/-- The addressed instruction register `S.ir_sel` when it is not None (R28). -/
structure IrSel where
  bits   : BitVec 6
  opcode : Word
  deriving DecidableEq, Repr

/-- The shift registers among the working registers of R31. -/
structure ShiftRegs where
  srOut  : Word
  srIn   : Word
  bitcnt : BitVec 6
  deriving DecidableEq, Repr

/-- The TAP session: all a pulse can read or change (R23 to R29, the shift registers of R31), the TDO
answers still to come and the output trace.

`tdoIn` holds the answers the environment has laid out, the next one first; past its end the answers are
the free values `Config.tdoSample`, one for each of the `samples` taken so far (R21: a sample "returns a
free bit"; notes/assumptions/1.md). `log` is the output trace of R22, newest event first; see `trace`. -/
structure TapSession where
  pins    : Pins
  tdoLast : Bool
  tap     : TapState
  ones    : BitVec 3
  irSel   : Option IrSel
  tapSel  : TapSel
  shift   : ShiftRegs
  tdoIn   : List Bool
  samples : Nat
  log     : List Event
  deriving DecidableEq, Repr

/-- The output trace in order, oldest event first (R22). -/
def TapSession.trace (b : TapSession) : List Event := b.log.reverse

/-- The Fast-Data Result register `S.res` (R30). -/
structure FastData where
  value : Word
  pracc : Bool
  deriving DecidableEq, Repr

/-- The poll and retry registers among the working registers of R31. -/
structure PollRegs where
  pollN   : Nat
  attempt : Nat
  tmp     : Word
  deriving DecidableEq, Repr

/-- The sequencer position `S.seq` (R33); `op = none` is IDLE. -/
structure SeqPos where
  op   : Option Byte
  step : Nat
  deriving DecidableEq, Repr

/-- The error latch `S.err` (R36). -/
structure ErrLatch where
  code : BitVec 4
  op   : Byte
  addr : Word
  obs  : Word
  exp  : Word
  deriving DecidableEq, Repr

/-- The identity registers `S.ident` (R38). -/
structure Ident where
  valid    : Bool
  id       : Word
  name     : Vector Byte 12
  rowWords : Half
  bfmKB    : Half
  pfmKB    : Half
  deriving DecidableEq, Repr

/-- Something put before the engine from outside, served one at a time (notes/assumptions/2.md).
`write` is a host register write (R45); a write of `H_CMD` starts a command (R97). `word` is a word of one
of the formats of R90 by itself: a row of the opcode table that no host opcode encodes. `reset` is the reset
input of R280, if the platform has one (notes/assumptions/7.md). -/
inductive Request where
  | write (offset value : Word)
  | word (format : Format) (bytes : List Byte)
  | reset
  deriving DecidableEq, Repr

/-- The engine state S (R21) and what its environment has put before it.

`catalog` is no state of the engine: it is the parameter CATALOG, which R11 and R21 make an argument of the
step relation. It stands here because a step takes nothing but a state; IDENTIFY reads it and nothing
writes it (R40, R61; notes/assumptions/8.md). -/
structure State where
  bus      : TapSession
  res      : FastData
  poll     : PollRegs
  arg0     : Word
  arg1     : Word
  arg2     : Word
  seq      : SeqPos
  busy     : Bool
  dev      : DevState
  fatal    : Bool
  err      : ErrLatch
  injCount : Word
  ident    : Ident
  rsp      : Word
  res0     : Word
  res1     : Word
  requests : List Request
  catalog  : List DeviceRecord
  deriving DecidableEq, Repr

/-- The output trace of the run so far, oldest event first (R22). -/
abbrev State.trace (s : State) : List Event := s.bus.trace

/-- Why the machine stops with a fault: never. 93_implementation_defined.md part 1 uses neither `stuck`
nor `fault`, "because every poll is bounded", and every error of R240 is a next state, so the type has no
constructor. Safe: nothing stops that the spec lets run. -/
inductive Fault where
  deriving DecidableEq, Repr

/-- Why a step has no next state. -/
inductive Refusal where
  /-- An arm of `exec` with no meaning. No arm raises it in this model. Safe. -/
  | notModelled (mnemonic : String)
  /-- Raised by `step` when a `Request.word` holds bytes that are no row of the opcode table in their
  format. No host register write raises it: every opcode byte decodes (R111). Safe. -/
  | noSuchWord (error : DecodeError)
  deriving DecidableEq, Repr

/-- The nine events of reset (R281), newest first. -/
def resetLog : List Event :=
  [.drive .rst (!Param.rstActiveLevel), .drive .tck Param.tckIdleLevel, .drive .tdi false, .drive .tms true,
   .config .tdo .input, .config .rst .output, .config .tck .output, .config .tdi .output,
   .config .tms .output]

/-- Right after reset: R50 field by field. The working registers of R31, which R50 leaves unspecified, are
zero (DESIGN CHOICE, notes/assumptions/4.md); no answer is laid out and nothing is requested
(notes/assumptions/1.md, 2.md); the catalog is the one R11 fixes. An engine with another catalog `c` is
`{ State.reset with catalog := c }`. -/
def State.reset : State where
  bus :=
    { pins := { tms := true, tdi := false, tck := Param.tckIdleLevel, rst := false }
      tdoLast := false
      tap := .unknownTap
      ones := 0#3
      irSel := none
      tapSel := .unknownSel
      shift := { srOut := 0#32, srIn := 0#32, bitcnt := 0#6 }
      tdoIn := []
      samples := 0
      log := resetLog }
  res := { value := 0#32, pracc := false }
  poll := { pollN := 0, attempt := 0, tmp := 0#32 }
  arg0 := 0#32
  arg1 := 0#32
  arg2 := 0#32
  seq := { op := none, step := 0 }
  busy := false
  dev := .unknown
  fatal := false
  err := { code := 0#4, op := 0#8, addr := 0#32, obs := 0#32, exp := 0#32 }
  injCount := 0#32
  ident :=
    { valid := false, id := 0#32, name := Vector.replicate 12 0#8, rowWords := 0#16, bfmKB := 0#16,
      pfmKB := 0#16 }
  rsp := 0#32
  res0 := 0#32
  res1 := 0#32
  requests := []
  catalog := Param.catalog

end Sys2Proof.Machine
end

