-- ==== Sys2Proof/Machine/Flags.lean ====
section
/-! DEFINITION. Every flag and state code the engine computes: the shadow TAP's next state and its count of
high pulses (R26, R27), the ready and busy tests of the status register (R47), the ready bit of the
Control word (R48), the verdict on an NVM status word (R49, R181), and the numbers the host reads for the
coded fields (R25, R29, R35). -/

namespace Sys2Proof.Machine

/-- The next state of the TAP controller graph (R26), for TMS low and TMS high. -/
def nextTap : TapState → Bool → TapState
  | .testLogicReset, false => .runTestIdle
  | .testLogicReset, true => .testLogicReset
  | .runTestIdle, false => .runTestIdle
  | .runTestIdle, true => .selectDR
  | .selectDR, false => .captureDR
  | .selectDR, true => .selectIR
  | .captureDR, false => .shiftDR
  | .captureDR, true => .exit1DR
  | .shiftDR, false => .shiftDR
  | .shiftDR, true => .exit1DR
  | .exit1DR, false => .pauseDR
  | .exit1DR, true => .updateDR
  | .pauseDR, false => .pauseDR
  | .pauseDR, true => .exit2DR
  | .exit2DR, false => .shiftDR
  | .exit2DR, true => .updateDR
  | .updateDR, false => .runTestIdle
  | .updateDR, true => .selectDR
  | .selectIR, false => .captureIR
  | .selectIR, true => .testLogicReset
  | .captureIR, false => .shiftIR
  | .captureIR, true => .exit1IR
  | .shiftIR, false => .shiftIR
  | .shiftIR, true => .exit1IR
  | .exit1IR, false => .pauseIR
  | .exit1IR, true => .updateIR
  | .pauseIR, false => .pauseIR
  | .pauseIR, true => .exit2IR
  | .exit2IR, false => .shiftIR
  | .exit2IR, true => .updateIR
  | .updateIR, false => .runTestIdle
  | .updateIR, true => .selectDR
  | .unknownTap, _ => .unknownTap

/-- `S.ones` after a pulse with TMS at `t` (R26, R27): one more, saturating at 5, or 0. -/
def nextOnes (ones : BitVec 3) (t : Bool) : BitVec 3 :=
  if t then BitVec.ofNat 3 (min (ones.toNat + 1) 5) else 0#3

/-- `S.tap` after a pulse (R26): the fifth high pulse in a row reaches Test-Logic-Reset from anywhere,
UnknownTap included; else the graph. -/
def shadowTap (tap : TapState) (ones : BitVec 3) (t : Bool) : TapState :=
  if nextOnes ones t = 5#3 then .testLogicReset else nextTap tap t

/-- The shadow's advance on the clock-high step of a pulse (R26 to R29), with TMS at the level on the pin:
`S.ir_sel` and `S.tap_sel` are dropped whenever the tap is set to Test-Logic-Reset. -/
def advanceShadow (b : TapSession) : TapSession :=
  let tap := shadowTap b.tap b.ones b.pins.tms
  { b with
    ones := nextOnes b.ones b.pins.tms
    tap := tap
    irSel := if tap = .testLogicReset then none else b.irSel
    tapSel := if tap = .testLogicReset then .unknownSel else b.tapSel }

/-- The status register's "ready-bit set and busy-bit clear" (R47, R172). -/
def statusReady (status : Word) : Bool :=
  status.getLsbD Param.statusReadyBit && !status.getLsbD Param.statusBusyBit

/-- The ready bit of the Control word shifted out (R48, R160). -/
def controlReady (control : Word) : Bool := control.getLsbD Param.ctrlPraccBit

/-- What EvalNvmStatus answers (R181). -/
inductive NvmVerdict where
  | done | failed | unconfirmed
  deriving DecidableEq, Repr

/-- EvalNvmStatus (R181): the busy bit is tested before the error bits (R248). -/
def evalNvmStatus (st : Word) : NvmVerdict :=
  if st &&& Param.nvmWr ≠ 0#32 then .unconfirmed
  else if st &&& Param.nvmErrMask ≠ 0#32 then .failed
  else .done

/-- The code of `S.tap` (R25). -/
def tapCode : TapState → BitVec 5
  | .testLogicReset => 0#5
  | .runTestIdle => 1#5
  | .selectDR => 2#5
  | .captureDR => 3#5
  | .shiftDR => 4#5
  | .exit1DR => 5#5
  | .pauseDR => 6#5
  | .exit2DR => 7#5
  | .updateDR => 8#5
  | .selectIR => 9#5
  | .captureIR => 10#5
  | .shiftIR => 11#5
  | .exit1IR => 12#5
  | .pauseIR => 13#5
  | .exit2IR => 14#5
  | .updateIR => 15#5
  | .unknownTap => 16#5

/-- The code of `S.tap_sel` (R29). -/
def tapSelCode : TapSel → BitVec 2
  | .unknownSel => 0#2
  | .mtap => 1#2
  | .etap => 2#2

/-- The code of `S.dev` (R35). -/
def devCode : DevState → BitVec 2
  | .unknown => 0#2
  | .mtapSelected => 1#2
  | .debugMode => 2#2
  | .reset => 3#2

end Sys2Proof.Machine
end

