-- ==== Sys2Proof/Machine/Operands.lean ====
section
/-! DEFINITION. The operands of the host commands: the values derived from the identity registers (R39), the
address and width checks (R65, R69, R112, R113, R231), the legality table (R171), and the words the
templates make of their operands (R106 to R110). -/

namespace Sys2Proof.Machine

/-! ### Derived identity values (R39), modulo 2^32 -/

/-- `rowBytes = r * WORD_BYTES`. -/
def Ident.rowBytes (d : Ident) : Word := d.rowWords.setWidth 32 * Param.wordBytes

/-- `pageBytes = r * WORD_BYTES * PAGE_ROWS`. -/
def Ident.pageBytes (d : Ident) : Word := d.rowWords.setWidth 32 * Param.wordBytes * Param.pageRows

/-- `pfmBytes = p * KB`. -/
def Ident.pfmBytes (d : Ident) : Word := d.pfmKB.setWidth 32 * Param.kb

/-- `bfmBytes = b * KB`. -/
def Ident.bfmBytes (d : Ident) : Word := d.bfmKB.setWidth 32 * Param.kb

/-- `pfmFirst = PFM_BASE`. -/
def pfmFirst : Word := Param.pfmBase

/-- `pfmLast = PFM_BASE + pfmBytes - 1`. -/
def Ident.pfmLast (d : Ident) : Word := Param.pfmBase + d.pfmBytes - 1#32

/-- `bfmFirst = BFM_BASE`. -/
def bfmFirst : Word := Param.bfmBase

/-- `bfmLast = BFM_BASE + bfmBytes - 1`. -/
def Ident.bfmLast (d : Ident) : Word := Param.bfmBase + d.bfmBytes - 1#32

/-- `cfgFirst = bfmLast - (CFG_BYTES - 1)`. -/
def Ident.cfgFirst (d : Ident) : Word := d.bfmLast - (Param.cfgBytes - 1#32)

/-- `cfgLast = bfmLast`. -/
def Ident.cfgLast (d : Ident) : Word := d.bfmLast

/-- An address is in flash (R64): the identity is resolved and it lies in one of the two windows. -/
def Ident.inFlash (d : Ident) (a : Word) : Bool :=
  d.valid && (decide (pfmFirst ≤ a ∧ a ≤ d.pfmLast) || decide (bfmFirst ≤ a ∧ a ≤ d.bfmLast))

/-! ### Operand checks -/

/-- `InRange(fa, g)` (R231): the whole granule lies in one window; the sum is formed without wrap. -/
def Ident.inRange (d : Ident) (fa g : Word) : Bool :=
  d.valid &&
    (decide (pfmFirst.toNat ≤ fa.toNat ∧ fa.toNat + (g.toNat - 1) ≤ d.pfmLast.toNat) ||
     decide (bfmFirst.toNat ≤ fa.toNat ∧ fa.toNat + (g.toNat - 1) ≤ d.bfmLast.toNat))

/-- A granule check of R231: the granule is nonzero, divides the address and lies in one window. -/
def Ident.granuleOk (d : Ident) (fa g : Word) : Bool :=
  decide (g ≠ 0#32) && decide (fa.toNat % g.toNat = 0) && d.inRange fa g

/-- The address check of R231 for an operation code; the other codes fail (R113). -/
def Ident.flashAddrOk (d : Ident) (op fa : Word) : Bool :=
  if op = Param.nvmopWriteWord then Bits.aligned4 fa && d.inRange fa Param.wordBytes
  else if op = Param.nvmopWriteRow then d.granuleOk fa d.rowBytes
  else if op = Param.nvmopErasePage then d.granuleOk fa d.pageBytes
  else if op = Param.nvmopEraseAll then Bits.aligned4 fa
  else false

/-- `op` is one of the four operation codes, all 32 bits compared (R113, R225). -/
def opCodeOk (op : Word) : Bool :=
  op == Param.nvmopWriteWord || op == Param.nvmopWriteRow || op == Param.nvmopErasePage ||
    op == Param.nvmopEraseAll

/-- `ramAddr` is a multiple of 4 and at most 0x7FFC (R65). -/
def ramAddrOk (ramAddr : Word) : Bool := Bits.aligned4 ramAddr && decide (ramAddr ≤ Param.ramAddrMax)

/-- `bits` is at most WIDTH_MAX, all 32 bits compared (R112, R226). -/
def widthOk (bits : Word) : Bool := decide (bits.toNat ≤ Param.widthMax)

/-! ### The legality table (R171) -/

/-- The operations of R171's table; `session` stands for NOP and CLEAR_ERROR, which R212 makes legal in
every state. -/
inductive Operation where
  | session
  | checkStatus
  | enterPgmMode
  | exitPgmMode
  | erase
  | downloadData
  | flashOperation
  | readFlashData
  | identify
  | assertTargetReset
  | rawTap
  deriving DecidableEq, Repr

/-- R171's `legal in S.dev` column. -/
def legalIn : Operation → DevState → Bool
  | .session, _ | .checkStatus, _ | .assertTargetReset, _ | .rawTap, _ => true
  | .enterPgmMode, d => d == .mtapSelected
  | .exitPgmMode, d | .erase, d | .downloadData, d | .flashOperation, d | .readFlashData, d
  | .identify, d => d == .debugMode

/-- R171's `also needs` column: the operation needs `S.ident.valid = 1`. -/
def needsIdent : Operation → Bool
  | .erase | .flashOperation => true
  | _ => false

/-- Step 3 of Exec (R212): the command is legal now. -/
def legalNow (op : Operation) (s : State) : Bool :=
  legalIn op s.dev && (!needsIdent op || s.ident.valid)

/-! ### The injected-program templates (address space INJ, R41, R62) -/

/-- PRE (R107). -/
def templatePre : List Instr := [.preP0, .preP1]

/-- DL (R108), its holes filled from `ramAddr` and `data`. -/
def templateDl (ramAddr data : Word) : List Instr :=
  [.dlD0, .dlD1 (Bits.hi16 data), .dlD2 (Bits.lo16 data), .dlD3 (Bits.lo16 ramAddr), .dlD4]

/-- FO (R109), its holes filled from `op`, `flashAddr` and `ramAddr`; F21 to F24 are the SETTLE_NOPS. -/
def templateFo (op flashAddr ramAddr : Word) : List Instr :=
  [.foF0, .foF1, .foF2 (Bits.hi16 flashAddr), .foF3 (Bits.lo16 flashAddr), .foF4,
   .foF5 (Bits.lo16 ramAddr), .foF6, .foF7 (op.setWidth 4), .foF8, .foF9, .foF10, .foF11, .foF12, .foF13,
   .foF14, .foF15, .foF16, .foF17, .foF18, .foF19, .foF20, .foF21, .foF22, .foF23, .foF24, .foF25, .foF26,
   .foF27, .foF28, .foF29]

/-- RD (R110), its holes filled from `v = addr | KSEG1_OR` (R74). -/
def templateRd (addr : Word) : List Instr :=
  [.rdA0, .rdA1 (Bits.hi16 (addr ||| Param.kseg1Or)), .rdA2 (Bits.lo16 (addr ||| Param.kseg1Or)), .rdA3,
   .rdA4]

/-- PRE's length, checked after its last Inject (R184). -/
def lengthPre : Nat := 2

/-- DL's length (R184). -/
def lengthDl : Nat := 5

/-- FO's length (R184). -/
def lengthFo : Nat := 26 + Param.settleNops

/-- RD's length (R184). -/
def lengthRd : Nat := 5

end Sys2Proof.Machine
end

