-- ==== Sys2Proof/Machine/Ops.lean ====
section
/-! DEFINITION. The shared operations: the pulse and the four TAP transfer primitives (40_tap_transfer.md),
the instruction injector (41_injection.md), how a command is accepted, ends, is refused or raises an error
(43 R212, 60 R250, R252), and how the error latch is left (43 R214). -/

namespace Sys2Proof.Machine

/-! ### Events and samples (R22) -/

/-- `emit E`. -/
def TapSession.emit (b : TapSession) (e : Event) : TapSession := { b with log := e :: b.log }

/-- The answer the next `sample()` gets: the next one laid out, else the free value (R8, R21). -/
def TapSession.nextAnswer (b : TapSession) : Bool :=
  match b.tdoIn with
  | [] => Config.tdoSample b.samples
  | x :: _ => x

/-- The session after one sample is taken. -/
def TapSession.takeAnswer (b : TapSession) : TapSession :=
  { b with tdoIn := b.tdoIn.tail, samples := b.samples + 1 }

/-- `emit Drive(TCK, level); S.pin.tck <- level` (R130). -/
def TapSession.driveTck (b : TapSession) (level : Bool) : TapSession :=
  { b.emit (.drive .tck level) with pins := { b.pins with tck := level } }

/-- `emit Drive(TMS, level); S.pin.tms <- level` (R131). -/
def TapSession.driveTms (b : TapSession) (level : Bool) : TapSession :=
  { b.emit (.drive .tms level) with pins := { b.pins with tms := level } }

/-- `emit Drive(TDI, level); S.pin.tdi <- level` (R131). -/
def TapSession.driveTdi (b : TapSession) (level : Bool) : TapSession :=
  { b.emit (.drive .tdi level) with pins := { b.pins with tdi := level } }

/-- `b <- sample(); emit Read(TDO) -> b; S.tdo_last <- b` (R130). -/
def TapSession.readTdo (b : TapSession) : TapSession :=
  { b.takeAnswer.emit (.read b.nextAnswer) with tdoLast := b.nextAnswer }

/-- ClockPulse (R130): drop the clock, sample TDO, raise the clock, advance the shadow. The bit it returns
is the one `S.tdo_last` then holds. -/
def clockPulse (b : TapSession) : TapSession :=
  advanceShadow (((b.driveTck false).readTdo).driveTck true)

/-- BitXfer (R131): drive TMS, drive TDI, one pulse. -/
def bitXfer (tms tdi : Bool) (b : TapSession) : TapSession :=
  clockPulse ((b.driveTms tms).driveTdi tdi)

/-! ### Shifting (R132 to R135, R141) -/

/-- A shift of `value` begins: the working registers of R31 are loaded. -/
def loadShift (value : Word) (b : TapSession) : TapSession :=
  { b with shift := { srOut := value, srIn := 0#32, bitcnt := 0#6 } }

/-- Data pulse `i` is over: `S.bitcnt` moves on and, where the rule keeps the sample, bit `i` of `S.sr_in`
takes it (`w <- w | (zext_32(b) << i)`, R132, R134). -/
def gatherBit (keep : Bool) (i : Nat) (b : TapSession) : TapSession :=
  { b with
    shift :=
      { b.shift with
        srIn := if keep then b.shift.srIn ||| (Bits.bit32 b.tdoLast <<< i) else b.shift.srIn
        bitcnt := BitVec.ofNat 6 (i + 1) } }

/-- `for i in 0 .. n-1`: data pulse `i` with the TMS and TDI levels of `tms i` and `tdi i`. -/
def shiftBits (keep : Bool) (tms tdi : Nat → Bool) : Nat → TapSession → TapSession
  | 0, b => b
  | n + 1, b =>
    gatherBit keep n (bitXfer (tms n) (tdi n) (shiftBits keep tms tdi n b))

/-- `TMS = (i = bits-1) ? 1 : 0`: the last data pulse of a scan raises TMS (R133, R134, R285). -/
def lastBit (bits i : Nat) : Bool := decide (i + 1 = bits)

/-- SetMode (R132): `value` on TMS, TDI low, the samples gathered. Width 0 changes nothing (R139). -/
def setMode (bits : Nat) (value : Word) (b : TapSession) : Word × TapSession :=
  if bits = 0 then (0#32, b)
  else
    let b := shiftBits true value.getLsbD (fun _ => false) bits (loadShift value b)
    (b.shift.srIn, b)

/-- TapReset (R137): `SetMode(6, 0x1F)`, its word discarded. -/
def tapReset (b : TapSession) : TapSession := (setMode Param.tapResetBits Param.tapResetWord b).2

/-- The end of SendCommand (R133, R28, R29): the addressed instruction register and, for the two
TAP-selecting opcodes, the selected TAP. -/
def selectIr (bits : Nat) (opcode : Word) (b : TapSession) : TapSession :=
  { b with
    irSel := some { bits := BitVec.ofNat 6 bits, opcode := Bits.lowBits bits opcode }
    tapSel :=
      if bits = Param.irBits ∧ Bits.lowBits 5 opcode = Param.mtapSwMtap then .mtap
      else if bits = Param.irBits ∧ Bits.lowBits 5 opcode = Param.mtapSwEtap then .etap
      else b.tapSel }

/-- SendCommand (R133): two pulses high, two low, the opcode with TMS raised on its last bit, high, low;
the samples are dropped. Width 0 changes nothing (R139). -/
def sendCommand (bits : Nat) (opcode : Word) (b : TapSession) : TapSession :=
  if bits = 0 then b
  else
    let b := bitXfer true false (bitXfer true false b)
    let b := bitXfer false false (bitXfer false false b)
    let b := shiftBits false (lastBit bits) opcode.getLsbD bits (loadShift opcode b)
    selectIr bits opcode (bitXfer false false (bitXfer true false b))

/-- XferDataData (R134): the data pulses of a data scan. -/
def xferDataData (bits : Nat) (value : Word) (b : TapSession) : Word × TapSession :=
  let b := shiftBits true (lastBit bits) value.getLsbD bits (loadShift value b)
  (b.shift.srIn, b)

/-- The header of a data scan (R135, R138): high, low, low. -/
def scanHeader (b : TapSession) : TapSession :=
  bitXfer false false (bitXfer false false (bitXfer true false b))

/-- The footer of a scan (R133, R135, R138): high, low. -/
def scanFooter (b : TapSession) : TapSession := bitXfer false false (bitXfer true false b)

/-- XferData (R135). Width 0 changes nothing (R139). -/
def xferData (bits : Nat) (value : Word) (b : TapSession) : Word × TapSession :=
  if bits = 0 then (0#32, b)
  else
    let r := xferDataData bits value (scanHeader b)
    (r.1, scanFooter r.2)

/-- The scan of XferFastData (R138): the handshake bit is sampled by the pulse before the 32 data pulses. -/
def fastScan (value : Word) (b : TapSession) : FastData × TapSession :=
  let b := bitXfer false false (scanHeader b)
  let r := xferDataData 32 value b
  ({ value := r.1, pracc := b.tdoLast }, scanFooter r.2)

/-- XferFastData (R138): the scan, its result left in `S.res`. -/
def xferFastData (value : Word) (s : State) : State :=
  let r := fastScan value s.bus
  { s with bus := r.2, res := r.1 }

/-! ### The state around the session -/

/-- A TAP-layer operation on the state. -/
def State.onBus (s : State) (f : TapSession → TapSession) : State := { s with bus := f s.bus }

/-- `emit Sleep(ms)`; a Sleep of 0 ms is never emitted (R256). -/
def State.sleep (s : State) (ms : Nat) : State :=
  if ms = 0 then s else s.onBus (·.emit (.sleep ms))

/-- SetRst (R178): drive the reset line, also when its level does not change. -/
def State.setRst (s : State) (b : Bool) : State :=
  s.onBus fun bus =>
    { bus.emit (.drive .rst (if b then Param.rstActiveLevel else !Param.rstActiveLevel)) with
      pins := { bus.pins with rst := b } }

/-- `S.dev <- d`, with the identity dropped for every value but DebugMode (R171, R38). -/
def State.setDev (s : State) (d : DevState) : State :=
  { s with
    dev := d
    ident := { s.ident with valid := if d = .debugMode then s.ident.valid else false } }

/-- One primitive call of the running operation is completed (R33; notes/assumptions/5.md). -/
def State.tick (s : State) : State := { s with seq := { s.seq with step := s.seq.step + 1 } }

/-- A poll's or readback's word `c` is in: `S.tmp` (R31; notes/assumptions/5.md). -/
def State.setTmp (s : State) (c : Word) : State := { s with poll := { s.poll with tmp := c } }

/-- `S.poll_n <- 0`. -/
def State.clearPolls (s : State) : State := { s with poll := { s.poll with pollN := 0 } }

/-- `S.poll_n <- S.poll_n + 1`. -/
def State.countPoll (s : State) : State := { s with poll := { s.poll with pollN := s.poll.pollN + 1 } }

/-- The reset input (R280): every field of the engine takes its reset value (R50) and the nine events of
R281 are emitted, whatever the engine was doing. The answers laid out and the requests to come are the
environment's, the catalog is a parameter: they stand (notes/assumptions/7.md). -/
def State.restart (s : State) : State :=
  { State.reset with
    bus :=
      { State.reset.bus with
        tdoIn := s.bus.tdoIn
        samples := s.bus.samples
        log := resetLog ++ s.bus.log }
    requests := s.requests
    catalog := s.catalog }

/-! ### The instruction injector (R160) -/

/-- One Control poll of XferInstruction (R160). -/
def controlPoll (s : State) : State :=
  let r := xferData Param.dataBits Param.ctrlResume s.bus
  (({ s with bus := r.2 } : State).setTmp r.1).countPoll

/-- The ready loop of XferInstruction (R160) with `n` polls left; the last Control word is in `S.tmp`. -/
def controlPolls : Nat → State → Bool × State
  | 0, s => (false, s)
  | n + 1, s =>
    let s := controlPoll s
    if controlReady s.poll.tmp then (true, s)
    else controlPolls n (if n = 0 then s else s.sleep Param.praccPollDelayMs)

/-- The service half of XferInstruction (R160), once the ready bit is seen: shift the instruction through
the Data register, then the proceed word through Control. -/
def serviceInstruction (word : Word) (b : TapSession) : TapSession :=
  let b := sendCommand Param.irBits Param.etapData b
  let b := (xferData Param.dataBits word b).2
  let b := sendCommand Param.irBits Param.etapControl b
  (xferData Param.dataBits Param.ctrlProceed b).2

/-- XferInstruction (R160). It never fails: a ready bit not seen in PRACC_POLL_MAX polls leaves
`S.res.pracc = 0`. Its result is `S.res`, the last Control word and the ready bit (R161). -/
def xferInstruction (word : Word) (s : State) : State :=
  let r := controlPolls Param.praccPollMax
    (s.onBus (sendCommand Param.irBits Param.etapControl)).clearPolls
  if r.1 then
    { r.2.onBus (serviceInstruction word) with
      res := { value := r.2.poll.tmp, pracc := true }
      injCount := r.2.injCount + 1#32 }
  else { r.2 with res := { value := r.2.poll.tmp, pracc := false } }

/-! ### Errors, refusals and the end of a command -/

/-- The five errors of the taxonomy (R240). -/
inductive ErrorKind where
  | busTimeout | protocolFraming | nvmControllerError | deviceUnidentified | verifyMismatch
  deriving DecidableEq, Repr

/-- The four refusals (R240). -/
inductive RefuseKind where
  | illegalState | badArgument | sessionFatal | unknownOpcode
  deriving DecidableEq, Repr

/-- The code of an error (R101). -/
def ErrorKind.toCode : ErrorKind → BitVec 4
  | .busTimeout => 1#4
  | .protocolFraming => 2#4
  | .nvmControllerError => 3#4
  | .deviceUnidentified => 4#4
  | .verifyMismatch => 5#4

/-- The code of a refusal (R101). -/
def RefuseKind.toCode : RefuseKind → BitVec 4
  | .illegalState => 8#4
  | .badArgument => 9#4
  | .sessionFatal => 10#4
  | .unknownOpcode => 11#4

/-- What a `raise` carries (R13, R250). -/
structure RaiseInfo where
  kind : ErrorKind
  addr : Word
  obs  : Word
  exp  : Word
  deriving DecidableEq, Repr

/-- How a procedure of the device-control layer ends: with a result, or with a raised error. -/
inductive Ran (α : Type) where
  | done (a : α) (s : State)
  | raised (e : RaiseInfo) (s : State)
  deriving DecidableEq, Repr

/-- Go on with a result; a raised error ends the rest (R250). -/
def Ran.andThen {α β : Type} (r : Ran α) (f : α → State → Ran β) : Ran β :=
  match r with
  | .done a s => f a s
  | .raised e s => .raised e s

/-- The end of every command (R99, R212): the response registers are written together, and the engine is
idle again. -/
def respond (code : BitVec 4) (r0 r1 : Word) (s : State) : State :=
  { s with
    rsp := code.setWidth 32
    res0 := r0
    res1 := r1
    busy := false
    seq := { op := none, step := 0 } }

/-- `refuse X` (R252): nothing but the response. -/
def refuse (k : RefuseKind) (s : State) : State := respond k.toCode 0#32 0#32 s

/-- Whether an error leaves the engine not knowing the target's state (R250). -/
def dropsDev : ErrorKind → Bool
  | .busTimeout | .protocolFraming => true
  | _ => false

/-- TAKING AN ERROR (R250): `raise E(addr, obs, exp)` while host opcode `c` runs. The latch saves the
failing operation, address, observed and expected values; the session is fatal; BusTimeout and
ProtocolFraming drop `S.dev` to Unknown; the response reports the code. -/
def raise (c : Byte) (e : RaiseInfo) (s : State) : State :=
  let s : State :=
    { s with
      fatal := true
      err := { code := e.kind.toCode, op := c, addr := e.addr, obs := e.obs, exp := e.exp } }
  let s := if dropsDev e.kind then s.setDev .unknown else s
  respond e.kind.toCode e.obs e.exp s

/-- LEAVING AN ERROR (R214, R253): CLEAR_ERROR's effect on the latch; `S.dev` is not touched. -/
def clearLatch (s : State) : State :=
  { s with
    fatal := false
    err := { code := 0#4, op := 0#8, addr := 0#32, obs := 0#32, exp := 0#32 } }

/-- Inject (R162): an injection that is not serviced raises BusTimeout. -/
def inject (word : Word) (s : State) : Ran Unit :=
  let s := xferInstruction word s
  if s.res.pracc then .done () s.tick
  else .raised ⟨.busTimeout, word, s.res.value, Param.ctrlResume⟩ s

/-- Inject a list of words in order; the first that is not serviced ends it (R162, R164). -/
def injectWords : List Word → State → Ran Unit
  | [], s => .done () s
  | w :: ws, s => (inject w s).andThen fun _ s => injectWords ws s

/-- The injected-count check of R184: `S.inj_count` grew from `before` by exactly `length`. -/
def checkCount (before : Word) (length : Nat) (s : State) : Ran Unit :=
  if s.injCount - before = BitVec.ofNat 32 length then .done () s
  else .raised ⟨.protocolFraming, 0#32, s.injCount - before, BitVec.ofNat 32 length⟩ s

/-- Inject a template (R62: one word per access, in increasing index order) and check the count (R184). -/
def injectTemplate (template : List Instr) (length : Nat) (s : State) : Ran Unit :=
  (injectWords (template.map wordOf) s).andThen fun _ t => checkCount s.injCount length t

/-! ### The dispatcher (R212) -/

/-- `S.busy <- 1; S.seq <- (c, 0)`. -/
def State.begin (c : Byte) (s : State) : State :=
  { s with busy := true, seq := { op := some c, step := 0 } }

/-- The opcodes the fatal latch lets through (R212 step 2). -/
def passesFatal (c : Byte) : Bool := c == 0x00#8 || c == 0x0E#8

/-- Steps 2 to 4 of Exec (R212) for a known opcode `c`: the first check that fails, in that order (R248).
`argsOk` is the command's own operand check. -/
def firstRefusal (c : Byte) (op : Operation) (argsOk : Bool) (s : State) : Option RefuseKind :=
  if s.fatal && !passesFatal c then some .sessionFatal
  else if !legalNow op s then some .illegalState
  else if !argsOk then some .badArgument
  else none

/-- How step 5 of Exec ends (R212): OK with the results, or the error taken. -/
def finish (c : Byte) : Ran (Word × Word) → State
  | .done r s => respond 0#4 r.1 r.2 s
  | .raised e s => raise c e s

/-- Exec (R212) for the opcode `c` of R100: refuse, or clear `S.inj_count`, run the command's rule and
respond. -/
def runCommand (c : Byte) (op : Operation) (argsOk : Bool) (body : State → Ran (Word × Word))
    (s : State) : State :=
  match firstRefusal c op argsOk s with
  | some k => refuse k (s.begin c)
  | none => finish c (body { s.begin c with injCount := 0#32 })

end Sys2Proof.Machine
end

