-- ==== Sys2Proof/Machine/Device.lean ====
section
/-! DEFINITION. The procedures of the device control layer (42_device_control.md) and the device
identification matcher (43 R210): what the host commands are composed of (R116). -/

namespace Sys2Proof.Machine

/-- A TAP-layer call of an operation's pseudocode, completed (R33). -/
def State.call (s : State) (f : TapSession → TapSession) : State := (s.onBus f).tick

/-! ### Status and erase -/

/-- One status poll (R172). -/
def statusScan (s : State) : State :=
  let r := xferData Param.mchpBits Param.mchpStatus s.bus
  (({ s with bus := r.2 } : State).setTmp r.1).countPoll

/-- The loop of StatusPoll (R172) with `n` polls left: a Sleep between polls, none after the last. -/
def statusPolls : Nat → State → Ran (Word × Nat)
  | 0, s => .raised ⟨.busTimeout, 0#32, s.poll.tmp, 1#32 <<< Param.statusReadyBit⟩ s
  | n + 1, s =>
    let s := statusScan s
    if statusReady s.poll.tmp then .done (s.poll.tmp, s.poll.pollN) s.tick
    else statusPolls n (if n = 0 then s else s.sleep Param.statusPollDelayMs)

/-- StatusPoll (R172): the status byte accepted and the number of polls. -/
def statusPoll (s : State) : Ran (Word × Nat) := statusPolls Param.statusPollMax s.clearPolls

/-- CheckStatus (R173). -/
def checkStatus (s : State) : Ran (Word × Nat) :=
  let s := (s.setRst true).tick
  let s := s.call tapReset
  let s := s.call (sendCommand Param.irBits Param.mtapSwMtap)
  let s := s.call (sendCommand Param.irBits Param.mtapCommand)
  (statusPoll s).andThen fun r s => .done r (s.setDev .mtapSelected)

/-- Erase (R174). -/
def erase (s : State) : Ran (Word × Nat) :=
  let s := s.call (sendCommand Param.irBits Param.mtapSwMtap)
  let s := s.call (sendCommand Param.irBits Param.mtapCommand)
  let s := s.call fun b => (xferData Param.mchpBits Param.mchpErase b).2
  (statusPoll s).andThen fun r s => .done r (s.call (sendCommand Param.irBits Param.mtapSwEtap))

/-! ### Programming mode entry and exit -/

/-- EnterPgmMode (R175). -/
def enterPgmMode (s : State) : Ran Unit :=
  let s := s.call (sendCommand Param.irBits Param.mtapSwEtap)
  let s := s.call (sendCommand Param.irBits Param.etapEjtagboot)
  let s := (s.setRst false).tick
  let s := s.sleep Param.bootSettleMs
  (injectTemplate templatePre lengthPre s).andThen fun _ s => .done () (s.setDev .debugMode)

/-- ExitPgmMode (R176). -/
def exitPgmMode (s : State) : State :=
  let s := s.call tapReset
  let s := s.call (sendCommand Param.irBits Param.mtapSwMtap)
  let s := (s.setRst true).tick
  let s := s.sleep Param.resetPulseMs
  let s := (s.setRst false).tick
  s.setDev .reset

/-- AssertTargetReset (R177): `S.dev` drops to Unknown for either value. -/
def assertReset (b : Bool) (s : State) : State := (s.setRst b).tick.setDev .unknown

/-! ### Download, NVM operation, readback -/

/-- DownloadData (R179). -/
def downloadData (ramAddr data : Word) (s : State) : Ran Unit :=
  injectTemplate (templateDl ramAddr data) lengthDl s

/-- FastDataDrain (R182): exactly two fast-data scans, the first dropped unseen, its prAcc untested
(R288). -/
def fastDataDrain (s : State) : Ran Word :=
  let s := s.call (sendCommand Param.irBits Param.etapFastdata)
  let s := (xferFastData 0#32 s).tick
  let s := (xferFastData 0#32 s).tick
  if s.res.pracc then .done s.res.value s
  else .raised ⟨.protocolFraming, 0#32, s.res.value, 1#32⟩ s

/-- FlashOperation (R180): the template once, front to back, then the status word. -/
def flashOperation (op flashAddr ramAddr : Word) (s : State) : Ran Word :=
  (injectTemplate (templateFo op flashAddr ramAddr) lengthFo s).andThen fun _ s =>
  (fastDataDrain s).andThen fun st s => .done st (s.setTmp st)

/-- ReadFlashData (R183). -/
def readFlashData (addr : Word) (s : State) : Ran Word :=
  (injectTemplate (templateRd addr) lengthRd s).andThen fun _ s => fastDataDrain s

/-- ProgramWord (R221) with `n` attempts left: Failed is retried as a whole while one is left. -/
def programAttempts (a v : Word) : Nat → State → Ran (Word × Nat)
  | 0, s => .raised ⟨.nvmControllerError, a, s.poll.tmp, 0#32⟩ s
  | n + 1, s =>
    let s : State := { s with poll := { s.poll with attempt := s.poll.attempt + 1 } }
    (downloadData Param.scratchOff v s).andThen fun _ s =>
    (flashOperation Param.nvmopWriteWord a Param.scratchOff s).andThen fun st s =>
    match evalNvmStatus st with
    | .done => .done (st, s.poll.attempt) s
    | .unconfirmed => .raised ⟨.busTimeout, a, st, 0#32⟩ s
    | .failed => programAttempts a v n s

/-- ProgramWord (R221): at most NVM_RETRY_MAX + 1 attempts. The status word of the last attempt is in
`S.tmp` when they run out. -/
def programWord (a v : Word) (s : State) : Ran (Word × Nat) :=
  programAttempts a v (Param.nvmRetryMax + 1) { s with poll := { s.poll with attempt := 0 } }

/-! ### Device identification (R210) -/

/-- The linear scan of a catalog from record `i` on (R210): the sentinel test comes before the match test,
and the first match wins. A list with no sentinel ends as if one stood there (R40 makes a legal catalog
end in one). -/
def scanCatalog (id : Word) : Nat → List DeviceRecord → Option (Nat × DeviceRecord)
  | _, [] => none
  | i, r :: rs =>
    if r.id = 0#32 then none
    else if r.id = id then some (i, r)
    else scanCatalog id (i + 1) rs

/-- The identity registers after a match (R210). -/
def identOf (id : Word) (r : DeviceRecord) : Ident :=
  { valid := true, id := id, name := r.name, rowWords := r.rowWords, bfmKB := r.bfmKB, pfmKB := r.pfmKB }

/-- Identify (R210) over a catalog: the index of the record matched. -/
def identifyIn (catalog : List DeviceRecord) (s : State) : Ran Nat :=
  (readFlashData Param.devidAddr { s with ident := { s.ident with valid := false } }).andThen fun w s =>
  match scanCatalog (w &&& Param.idMask) 0 catalog with
  | none => .raised ⟨.deviceUnidentified, Param.devidAddr, w, 0#32⟩ s
  | some (i, r) => .done i { s with ident := identOf (w &&& Param.idMask) r }

end Sys2Proof.Machine
end

