-- ==== Sys2Proof/Machine/HostCommands.lean ====
section
/-! DEFINITION. The host commands that act through the device-control layer, and NOP and CLEAR_ERROR
(43 R213 to R225): one meaning each. Every one is a next state: refused, ended with an error, or OK. -/

namespace Sys2Proof.Machine

/-- The two result words of R98 from a status byte or word and a count. -/
def statusAndCount (r : Word × Nat) (s : State) : Ran (Word × Word) :=
  .done (r.1, BitVec.ofNat 32 r.2) s

/-- NOP (R213). -/
def execNop (s : State) : Host.Outcome State Fault Refusal :=
  .next (runCommand 0x00#8 .session true (fun s => .done (0#32, 0#32) s) s)

/-- CLEAR_ERROR (R214). -/
def execClearError (s : State) : Host.Outcome State Fault Refusal :=
  .next (runCommand 0x0E#8 .session true (fun s => .done (0#32, 0#32) (clearLatch s)) s)

/-- WAIT_READY (R215): CheckStatus. -/
def execWaitReady (s : State) : Host.Outcome State Fault Refusal :=
  .next (runCommand 0x01#8 .checkStatus true (fun s => (checkStatus s).andThen statusAndCount) s)

/-- ENTER_PGM_MODE (R216). -/
def execEnterPgmMode (s : State) : Host.Outcome State Fault Refusal :=
  .next (runCommand 0x02#8 .enterPgmMode true
    (fun s => (enterPgmMode s).andThen fun _ s => .done (0#32, 0#32) s) s)

/-- EXIT_PGM_MODE (R217). -/
def execExitPgmMode (s : State) : Host.Outcome State Fault Refusal :=
  .next (runCommand 0x03#8 .exitPgmMode true (fun s => .done (0#32, 0#32) (exitPgmMode s)) s)

/-- ERASE_ALL (R218): the TAP-level bulk erase. -/
def execEraseAll (s : State) : Host.Outcome State Fault Refusal :=
  .next (runCommand 0x04#8 .erase true (fun s => (erase s).andThen statusAndCount) s)

/-- ASSERT_TARGET_RESET (R219): `b = ARG0[0]`, the other bits ignored. -/
def execAssertTargetReset (s : State) : Host.Outcome State Fault Refusal :=
  .next (runCommand 0x05#8 .assertTargetReset true
    (fun s => .done (0#32, 0#32) (assertReset (s.arg0.getLsbD 0) s)) s)

/-- IDENTIFY (R220) over the catalog of this machine (R11, R61). -/
def execIdentify (s : State) : Host.Outcome State Fault Refusal :=
  .next (runCommand 0x06#8 .identify true
    (fun s => (identifyIn s.catalog s).andThen fun i s => .done (s.ident.id, BitVec.ofNat 32 i) s) s)

/-- PROGRAM_WORD (R221): `a = ARG0`, `v = ARG1`. -/
def execProgramWord (s : State) : Host.Outcome State Fault Refusal :=
  .next (runCommand 0x07#8 .flashOperation
    (Bits.aligned4 s.arg0 && s.ident.inRange s.arg0 Param.wordBytes)
    (fun s => (programWord s.arg0 s.arg1 s).andThen statusAndCount) s)

/-- READ_WORD (R222): `a = ARG0`; alignment is the only check. -/
def execReadWord (s : State) : Host.Outcome State Fault Refusal :=
  .next (runCommand 0x08#8 .readFlashData (Bits.aligned4 s.arg0)
    (fun s => (readFlashData s.arg0 s).andThen fun w s => .done (w, 0#32) s) s)

/-- VERIFY_WORD (R223): `a = ARG0`, `e = ARG1`. -/
def execVerifyWord (s : State) : Host.Outcome State Fault Refusal :=
  .next (runCommand 0x09#8 .readFlashData (Bits.aligned4 s.arg0)
    (fun s => (readFlashData s.arg0 s).andThen fun w s =>
      if w = s.arg1 then .done (w, s.arg1) s else .raised ⟨.verifyMismatch, s.arg0, w, s.arg1⟩ s) s)

/-- DOWNLOAD_DATA (R224): `ramAddr = ARG0`, `data = ARG1`. -/
def execDownloadData (s : State) : Host.Outcome State Fault Refusal :=
  .next (runCommand 0x0A#8 .downloadData (ramAddrOk s.arg0)
    (fun s => (downloadData s.arg0 s.arg1 s).andThen fun _ s => .done (0#32, 0#32) s) s)

/-- FLASH_OPERATION (R225): `op = ARG0`, `fa = ARG1`, `ramAddr = ARG2`. An unconfirmed operation is
BusTimeout; error bits are handed to the host with response OK. -/
def execFlashOperation (s : State) : Host.Outcome State Fault Refusal :=
  .next (runCommand 0x0B#8 .flashOperation
    (opCodeOk s.arg0 && ramAddrOk s.arg2 && s.ident.flashAddrOk s.arg0 s.arg1)
    (fun s => (flashOperation s.arg0 s.arg1 s.arg2 s).andThen fun st s =>
      if evalNvmStatus st = .unconfirmed then .raised ⟨.busTimeout, s.arg1, st, 0#32⟩ s
      else .done (st, 0#32) s) s)

end Sys2Proof.Machine
end

