-- ==== Sys2Proof/Machine/RawCommands.lean ====
section
/-! DEFINITION. The raw TAP commands (43 R226 to R230). Each is a shared operation on its operands, so that
a row of a wire format run by itself can be run as the raw command that shifts it
(notes/assumptions/2.md), and a meaning that reads the operands from the operand registers. -/

namespace Sys2Proof.Machine

/-- What every raw command does first (R226): `S.dev <- Unknown; S.ident.valid <- 0`. -/
def dropSession (s : State) : State := s.setDev .unknown

/-- RAW_SET_MODE of `bits` and `value` (R226). -/
def rawSetMode (bits value : Word) (s : State) : State :=
  runCommand 0x10#8 .rawTap (widthOk bits)
    (fun s =>
      let s := dropSession s
      let r := setMode bits.toNat value s.bus
      .done (r.1, 0#32) (s.call fun _ => r.2)) s

/-- RAW_SEND_COMMAND of `bits` and `opcode` (R227). -/
def rawSendCommand (bits opcode : Word) (s : State) : State :=
  runCommand 0x11#8 .rawTap (widthOk bits)
    (fun s => .done (0#32, 0#32) ((dropSession s).call (sendCommand bits.toNat opcode))) s

/-- RAW_XFER_DATA of `bits` and `value` (R228). -/
def rawXferData (bits value : Word) (s : State) : State :=
  runCommand 0x12#8 .rawTap (widthOk bits)
    (fun s =>
      let s := dropSession s
      let r := xferData bits.toNat value s.bus
      .done (r.1, 0#32) (s.call fun _ => r.2)) s

/-- RAW_XFER_FAST_DATA of `value` (R229). -/
def rawXferFastData (value : Word) (s : State) : State :=
  runCommand 0x13#8 .rawTap true
    (fun s =>
      let s := (xferFastData value (dropSession s)).tick
      .done (s.res.value, Bits.bit32 s.res.pracc) s) s

/-- RAW_XFER_INSTRUCTION of `word` (R230): a poll that runs out is reported, not raised. -/
def rawXferInstruction (word : Word) (s : State) : State :=
  runCommand 0x14#8 .rawTap true
    (fun s =>
      let s := (xferInstruction word (dropSession s)).tick
      .done (s.res.value, Bits.bit32 s.res.pracc) s) s

/-- RAW_SET_MODE (R226): `bits = ARG0`, `value = ARG1`. -/
def execRawSetMode (s : State) : Host.Outcome State Fault Refusal := .next (rawSetMode s.arg0 s.arg1 s)

/-- RAW_SEND_COMMAND (R227): `bits = ARG0`, `opcode = ARG1`. -/
def execRawSendCommand (s : State) : Host.Outcome State Fault Refusal :=
  .next (rawSendCommand s.arg0 s.arg1 s)

/-- RAW_XFER_DATA (R228): `bits = ARG0`, `value = ARG1`. -/
def execRawXferData (s : State) : Host.Outcome State Fault Refusal := .next (rawXferData s.arg0 s.arg1 s)

/-- RAW_XFER_FAST_DATA (R229): `value = ARG0`. -/
def execRawXferFastData (s : State) : Host.Outcome State Fault Refusal := .next (rawXferFastData s.arg0 s)

/-- RAW_XFER_INSTRUCTION (R230): `word = ARG0`. -/
def execRawXferInstruction (s : State) : Host.Outcome State Fault Refusal :=
  .next (rawXferInstruction s.arg0 s)

end Sys2Proof.Machine
end

