-- ==== Sys2Proof/Machine/InjectedWords.lean ====
section
/-! DEFINITION. The injected instruction forms (R105) run by themselves. "The engine does not decode or
execute them; it only assembles them ... and shifts them out": what the engine does with such a word is
XferInstruction (R160), and the host command that does it with a word of the host's is
RAW_XFER_INSTRUCTION (R230; notes/assumptions/2.md). -/

namespace Sys2Proof.Machine

/-- `lui rt, imm` (R105). -/
def execLui (rt : BitVec 5) (imm : Half) (s : State) : Host.Outcome State Fault Refusal :=
  .next (rawXferInstruction (wordOf (.lui rt imm)) s)

/-- `ori rt, rs, imm` (R105). -/
def execOri (rt : BitVec 5) (rs : BitVec 5) (imm : Half) (s : State) : Host.Outcome State Fault Refusal :=
  .next (rawXferInstruction (wordOf (.ori rt rs imm)) s)

/-- `andi rt, rs, imm` (R105). -/
def execAndi (rt : BitVec 5) (rs : BitVec 5) (imm : Half) (s : State) : Host.Outcome State Fault Refusal :=
  .next (rawXferInstruction (wordOf (.andi rt rs imm)) s)

/-- `sw rt, imm(rs)` (R105). -/
def execSw (rt : BitVec 5) (imm : Half) (rs : BitVec 5) (s : State) : Host.Outcome State Fault Refusal :=
  .next (rawXferInstruction (wordOf (.sw rt imm rs)) s)

/-- `lw rt, imm(rs)` (R105). -/
def execLw (rt : BitVec 5) (imm : Half) (rs : BitVec 5) (s : State) : Host.Outcome State Fault Refusal :=
  .next (rawXferInstruction (wordOf (.lw rt imm rs)) s)

/-- `bne rs, rt, imm` (R105). -/
def execBne (rs : BitVec 5) (rt : BitVec 5) (imm : Half) (s : State) : Host.Outcome State Fault Refusal :=
  .next (rawXferInstruction (wordOf (.bne rs rt imm)) s)

/-- `nop` (R105). -/
def execMipsNop (s : State) : Host.Outcome State Fault Refusal :=
  .next (rawXferInstruction (wordOf .mipsNop) s)

end Sys2Proof.Machine
end

