-- ==== Sys2Proof/Machine/ReservedOpcodes.lean ====
section
/-! DEFINITION. The reserved host opcodes (R111): "the command ends with refuse UnknownOpcode, no event is
emitted and no state but the response registers changes". It is the first check of Exec (R212), so it
applies in a fatal session too. -/

namespace Sys2Proof.Machine

/-- A reserved opcode (R111, R212 step 1). -/
def refuseUnknownOpcode (s : State) : State := refuse .unknownOpcode s

/-- RESERVED_0C (R111): 0x0C to 0x0D. -/
def execReserved0C (_low : BitVec 1) (s : State) : Host.Outcome State Fault Refusal :=
  .next (refuseUnknownOpcode s)

/-- RESERVED_0F (R111): 0x0F. -/
def execReserved0F (s : State) : Host.Outcome State Fault Refusal :=
  .next (refuseUnknownOpcode s)

/-- RESERVED_15 (R111): 0x15. -/
def execReserved15 (s : State) : Host.Outcome State Fault Refusal :=
  .next (refuseUnknownOpcode s)

/-- RESERVED_16 (R111): 0x16 to 0x17. -/
def execReserved16 (_low : BitVec 1) (s : State) : Host.Outcome State Fault Refusal :=
  .next (refuseUnknownOpcode s)

/-- RESERVED_18 (R111): 0x18 to 0x1F. -/
def execReserved18 (_low : BitVec 3) (s : State) : Host.Outcome State Fault Refusal :=
  .next (refuseUnknownOpcode s)

/-- RESERVED_20 (R111): 0x20 to 0x3F. -/
def execReserved20 (_low : BitVec 5) (s : State) : Host.Outcome State Fault Refusal :=
  .next (refuseUnknownOpcode s)

/-- RESERVED_40 (R111): 0x40 to 0x7F. -/
def execReserved40 (_low : BitVec 6) (s : State) : Host.Outcome State Fault Refusal :=
  .next (refuseUnknownOpcode s)

/-- RESERVED_80 (R111): 0x80 to 0xFF. -/
def execReserved80 (_low : BitVec 7) (s : State) : Host.Outcome State Fault Refusal :=
  .next (refuseUnknownOpcode s)

end Sys2Proof.Machine
end

