-- ==== Sys2Proof/Machine/Responses.lean ====
section
/-! DEFINITION. The rows of the response code (R101) run by themselves: the engine ends with that response
(R99: "all written together when the command ends"). R98 fixes the two result words of a refusal (0, 0)
and of an error (`S.err.obs`, `S.err.exp`); for OK they are those the command left, so the registers stand
(notes/assumptions/6.md). The errors and refusals themselves are `raise` and `refuse` of
Machine/Ops.lean. -/

namespace Sys2Proof.Machine

/-- An OK response (R101): the result registers stand. -/
def respondOk (s : State) : State := respond 0#4 s.res0 s.res1 s

/-- An error response (R101, R98): the results are the latched observed and expected values. -/
def respondError (k : ErrorKind) (s : State) : State := respond k.toCode s.err.obs s.err.exp s

/-- RSP_OK (R101). -/
def execRspOk (s : State) : Host.Outcome State Fault Refusal := .next (respondOk s)

/-- RSP_BusTimeout (R101). -/
def execRspBusTimeout (s : State) : Host.Outcome State Fault Refusal := .next (respondError .busTimeout s)

/-- RSP_ProtocolFraming (R101). -/
def execRspProtocolFraming (s : State) : Host.Outcome State Fault Refusal := .next (respondError .protocolFraming s)

/-- RSP_NvmControllerError (R101). -/
def execRspNvmControllerError (s : State) : Host.Outcome State Fault Refusal := .next (respondError .nvmControllerError s)

/-- RSP_DeviceUnidentified (R101). -/
def execRspDeviceUnidentified (s : State) : Host.Outcome State Fault Refusal := .next (respondError .deviceUnidentified s)

/-- RSP_VerifyMismatch (R101). -/
def execRspVerifyMismatch (s : State) : Host.Outcome State Fault Refusal := .next (respondError .verifyMismatch s)

/-- RSP_IllegalState (R101). -/
def execRspIllegalState (s : State) : Host.Outcome State Fault Refusal := .next (refuse .illegalState s)

/-- RSP_BadArgument (R101). -/
def execRspBadArgument (s : State) : Host.Outcome State Fault Refusal := .next (refuse .badArgument s)

/-- RSP_SessionFatal (R101). -/
def execRspSessionFatal (s : State) : Host.Outcome State Fault Refusal := .next (refuse .sessionFatal s)

/-- RSP_UnknownOpcode (R101). -/
def execRspUnknownOpcode (s : State) : Host.Outcome State Fault Refusal := .next (refuse .unknownOpcode s)

end Sys2Proof.Machine
end

