-- ==== Sys2Proof/Machine/TemplateWords.lean ====
section
/-! DEFINITION. The words of the injected-program templates (R107 to R110) run by themselves. Inside a
device operation each is injected in its place by `injectTemplate` (Machine/Ops.lean); by itself it is one
instruction word pushed through the injector (R160, R230; notes/assumptions/2.md). -/

namespace Sys2Proof.Machine

/-- P0 `lui a0, 0xBF80` (R107). -/
def execPreP0 (s : State) : Host.Outcome State Fault Refusal :=
  .next (rawXferInstruction (wordOf .preP0) s)

/-- P1 `ori a0, a0, 0xF400` (R107). -/
def execPreP1 (s : State) : Host.Outcome State Fault Refusal :=
  .next (rawXferInstruction (wordOf .preP1) s)

/-- D0 `lui s0, 0xA000` (R108). -/
def execDlD0 (s : State) : Host.Outcome State Fault Refusal :=
  .next (rawXferInstruction (wordOf .dlD0) s)

/-- D1 `lui t0, hi16(data)` (R108). -/
def execDlD1 (hole : Half) (s : State) : Host.Outcome State Fault Refusal :=
  .next (rawXferInstruction (wordOf (.dlD1 hole)) s)

/-- D2 `ori t0, t0, lo16(data)` (R108). -/
def execDlD2 (hole : Half) (s : State) : Host.Outcome State Fault Refusal :=
  .next (rawXferInstruction (wordOf (.dlD2 hole)) s)

/-- D3 `sw t0, ramAddr(s0)` (R108). -/
def execDlD3 (hole : Half) (s : State) : Host.Outcome State Fault Refusal :=
  .next (rawXferInstruction (wordOf (.dlD3 hole)) s)

/-- D4 `sw t0, 0x30(a0)` (R108). -/
def execDlD4 (s : State) : Host.Outcome State Fault Refusal :=
  .next (rawXferInstruction (wordOf .dlD4) s)

/-- F0 `lui a0, 0xBF80` (R109). -/
def execFoF0 (s : State) : Host.Outcome State Fault Refusal :=
  .next (rawXferInstruction (wordOf .foF0) s)

/-- F1 `ori a0, a0, 0xF400` (R109). -/
def execFoF1 (s : State) : Host.Outcome State Fault Refusal :=
  .next (rawXferInstruction (wordOf .foF1) s)

/-- F2 `lui t0, hi16(flashAddr)` (R109). -/
def execFoF2 (hole : Half) (s : State) : Host.Outcome State Fault Refusal :=
  .next (rawXferInstruction (wordOf (.foF2 hole)) s)

/-- F3 `ori t0, t0, lo16(flashAddr)` (R109). -/
def execFoF3 (hole : Half) (s : State) : Host.Outcome State Fault Refusal :=
  .next (rawXferInstruction (wordOf (.foF3 hole)) s)

/-- F4 `sw t0, 0x20(a0)` (R109). -/
def execFoF4 (s : State) : Host.Outcome State Fault Refusal :=
  .next (rawXferInstruction (wordOf .foF4) s)

/-- F5 `ori t0, zero, ramAddr` (R109). -/
def execFoF5 (hole : Half) (s : State) : Host.Outcome State Fault Refusal :=
  .next (rawXferInstruction (wordOf (.foF5 hole)) s)

/-- F6 `sw t0, 0x40(a0)` (R109). -/
def execFoF6 (s : State) : Host.Outcome State Fault Refusal :=
  .next (rawXferInstruction (wordOf .foF6) s)

/-- F7 `ori t0, zero, 0x4000|op` (R109). -/
def execFoF7 (op : BitVec 4) (s : State) : Host.Outcome State Fault Refusal :=
  .next (rawXferInstruction (wordOf (.foF7 op)) s)

/-- F8 `sw t0, 0x00(a0)` (R109). -/
def execFoF8 (s : State) : Host.Outcome State Fault Refusal :=
  .next (rawXferInstruction (wordOf .foF8) s)

/-- F9 `lui t0, 0xAA99` (R109). -/
def execFoF9 (s : State) : Host.Outcome State Fault Refusal :=
  .next (rawXferInstruction (wordOf .foF9) s)

/-- F10 `ori t0, t0, 0x6655` (R109). -/
def execFoF10 (s : State) : Host.Outcome State Fault Refusal :=
  .next (rawXferInstruction (wordOf .foF10) s)

/-- F11 `lui t1, 0x5566` (R109). -/
def execFoF11 (s : State) : Host.Outcome State Fault Refusal :=
  .next (rawXferInstruction (wordOf .foF11) s)

/-- F12 `ori t1, t1, 0x99AA` (R109). -/
def execFoF12 (s : State) : Host.Outcome State Fault Refusal :=
  .next (rawXferInstruction (wordOf .foF12) s)

/-- F13 `ori t2, zero, 0x8000` (R109). -/
def execFoF13 (s : State) : Host.Outcome State Fault Refusal :=
  .next (rawXferInstruction (wordOf .foF13) s)

/-- F14 `sw t0, 0x10(a0)` (R109). -/
def execFoF14 (s : State) : Host.Outcome State Fault Refusal :=
  .next (rawXferInstruction (wordOf .foF14) s)

/-- F15 `sw t1, 0x10(a0)` (R109). -/
def execFoF15 (s : State) : Host.Outcome State Fault Refusal :=
  .next (rawXferInstruction (wordOf .foF15) s)

/-- F16 `sw t2, 0x08(a0)` (R109). -/
def execFoF16 (s : State) : Host.Outcome State Fault Refusal :=
  .next (rawXferInstruction (wordOf .foF16) s)

/-- F17 `lw t0, 0x00(a0)` (R109). -/
def execFoF17 (s : State) : Host.Outcome State Fault Refusal :=
  .next (rawXferInstruction (wordOf .foF17) s)

/-- F18 `andi t0, t0, 0x8000` (R109). -/
def execFoF18 (s : State) : Host.Outcome State Fault Refusal :=
  .next (rawXferInstruction (wordOf .foF18) s)

/-- F19 `bne t0, zero, -3` (R109). -/
def execFoF19 (s : State) : Host.Outcome State Fault Refusal :=
  .next (rawXferInstruction (wordOf .foF19) s)

/-- F20 `nop (branch delay slot)` (R109). -/
def execFoF20 (s : State) : Host.Outcome State Fault Refusal :=
  .next (rawXferInstruction (wordOf .foF20) s)

/-- F21 `nop (settle 1 of SETTLE_NOPS)` (R109). -/
def execFoF21 (s : State) : Host.Outcome State Fault Refusal :=
  .next (rawXferInstruction (wordOf .foF21) s)

/-- F22 `nop (settle 2)` (R109). -/
def execFoF22 (s : State) : Host.Outcome State Fault Refusal :=
  .next (rawXferInstruction (wordOf .foF22) s)

/-- F23 `nop (settle 3)` (R109). -/
def execFoF23 (s : State) : Host.Outcome State Fault Refusal :=
  .next (rawXferInstruction (wordOf .foF23) s)

/-- F24 `nop (settle 4)` (R109). -/
def execFoF24 (s : State) : Host.Outcome State Fault Refusal :=
  .next (rawXferInstruction (wordOf .foF24) s)

/-- F25 `ori t0, zero, 0x4000` (R109). -/
def execFoF25 (s : State) : Host.Outcome State Fault Refusal :=
  .next (rawXferInstruction (wordOf .foF25) s)

/-- F26 `sw t0, 0x04(a0)` (R109). -/
def execFoF26 (s : State) : Host.Outcome State Fault Refusal :=
  .next (rawXferInstruction (wordOf .foF26) s)

/-- F27 `lw t0, 0x00(a0)` (R109). -/
def execFoF27 (s : State) : Host.Outcome State Fault Refusal :=
  .next (rawXferInstruction (wordOf .foF27) s)

/-- F28 `lui s3, 0xFF20` (R109). -/
def execFoF28 (s : State) : Host.Outcome State Fault Refusal :=
  .next (rawXferInstruction (wordOf .foF28) s)

/-- F29 `sw t0, 0x00(s3)` (R109). -/
def execFoF29 (s : State) : Host.Outcome State Fault Refusal :=
  .next (rawXferInstruction (wordOf .foF29) s)

/-- A0 `lui s3, 0xFF20` (R110). -/
def execRdA0 (s : State) : Host.Outcome State Fault Refusal :=
  .next (rawXferInstruction (wordOf .rdA0) s)

/-- A1 `lui t0, hi16(v)` (R110). -/
def execRdA1 (hole : Half) (s : State) : Host.Outcome State Fault Refusal :=
  .next (rawXferInstruction (wordOf (.rdA1 hole)) s)

/-- A2 `ori t0, t0, lo16(v)` (R110). -/
def execRdA2 (hole : Half) (s : State) : Host.Outcome State Fault Refusal :=
  .next (rawXferInstruction (wordOf (.rdA2 hole)) s)

/-- A3 `lw t1, 0(t0)` (R110). -/
def execRdA3 (s : State) : Host.Outcome State Fault Refusal :=
  .next (rawXferInstruction (wordOf .rdA3) s)

/-- A4 `sw t1, 0(s3)` (R110). -/
def execRdA4 (s : State) : Host.Outcome State Fault Refusal :=
  .next (rawXferInstruction (wordOf .rdA4) s)

end Sys2Proof.Machine
end

