-- ==== Sys2Proof/Machine/WireRows.lean ====
section
/-! DEFINITION. The wire rows of the opcode table run by themselves: the frames (R92 to R95), the TAP
opcodes (R102), the memory-control command bytes (R103) and the EJTAG Control words (R104). The one way a
host can put such a row on the wire by itself is the raw command that shifts it (R114, R226 to R229), so
that command on the row's own width and value is its meaning (notes/assumptions/2.md). -/

namespace Sys2Proof.Machine

/-- SetMode(6, 0x1F) = TapReset (R132, R137). -/
def execSetMode6TapReset (s : State) : Host.Outcome State Fault Refusal :=
  .next (rawSetMode 6#32 0x1F#32 s)

/-- SendCommand(5, opcode) (R133). -/
def execSendCommand5 (opcode : BitVec 5) (s : State) : Host.Outcome State Fault Refusal :=
  .next (rawSendCommand 5#32 (opcode.setWidth 32) s)

/-- XferData(8, value) (R135). -/
def execXferData8 (value : Byte) (s : State) : Host.Outcome State Fault Refusal :=
  .next (rawXferData 8#32 (value.setWidth 32) s)

/-- XferData(32, value) (R135). -/
def execXferData32 (value : Word) (s : State) : Host.Outcome State Fault Refusal :=
  .next (rawXferData 32#32 value s)

/-- XferFastData(value) (R138). -/
def execXferFastData (value : Word) (s : State) : Host.Outcome State Fault Refusal :=
  .next (rawXferFastData value s)

/-- SendCommand(5, MTAP_SW_MTAP) (R102, R133): select the memory-control tap. -/
def execMtapSwMtap (s : State) : Host.Outcome State Fault Refusal :=
  .next (rawSendCommand 5#32 (wordOf .mtapSwMtap) s)

/-- SendCommand(5, MTAP_SW_ETAP) (R102, R133): switch to the execution tap. -/
def execMtapSwEtap (s : State) : Host.Outcome State Fault Refusal :=
  .next (rawSendCommand 5#32 (wordOf .mtapSwEtap) s)

/-- SendCommand(5, MTAP_COMMAND) (R102, R133): address the command/status register of the memory-control tap. -/
def execMtapCommand (s : State) : Host.Outcome State Fault Refusal :=
  .next (rawSendCommand 5#32 (wordOf .mtapCommand) s)

/-- SendCommand(5, ETAP_DATA) (R102, R133): select the Data register. -/
def execEtapData (s : State) : Host.Outcome State Fault Refusal :=
  .next (rawSendCommand 5#32 (wordOf .etapData) s)

/-- SendCommand(5, ETAP_CONTROL) (R102, R133): select EJTAG Control register. -/
def execEtapControl (s : State) : Host.Outcome State Fault Refusal :=
  .next (rawSendCommand 5#32 (wordOf .etapControl) s)

/-- SendCommand(5, ETAP_EJTAGBOOT) (R102, R133): the vendor's boot command. -/
def execEtapEjtagboot (s : State) : Host.Outcome State Fault Refusal :=
  .next (rawSendCommand 5#32 (wordOf .etapEjtagboot) s)

/-- SendCommand(5, ETAP_FASTDATA) (R102, R133): select the fast-data register. -/
def execEtapFastdata (s : State) : Host.Outcome State Fault Refusal :=
  .next (rawSendCommand 5#32 (wordOf .etapFastdata) s)

/-- XferData(8, MCHP_STATUS) (R103, R135): no command; the byte shifted out is the status register. -/
def execMchpStatus (s : State) : Host.Outcome State Fault Refusal :=
  .next (rawXferData 8#32 (wordOf .mchpStatus) s)

/-- XferData(8, MCHP_ERASE) (R103, R135): bulk-erase command. -/
def execMchpErase (s : State) : Host.Outcome State Fault Refusal :=
  .next (rawXferData 8#32 (wordOf .mchpErase) s)

/-- XferData(32, CTRL_RESUME) (R104, R135): resume word shifted while polling the ready bit (bit 18 of the word shifted out). -/
def execCtrlResume (s : State) : Host.Outcome State Fault Refusal :=
  .next (rawXferData 32#32 (wordOf .ctrlResume) s)

/-- XferData(32, CTRL_PROCEED) (R104, R135): proceed word shifted after the instruction. -/
def execCtrlProceed (s : State) : Host.Outcome State Fault Refusal :=
  .next (rawXferData 32#32 (wordOf .ctrlProceed) s)

end Sys2Proof.Machine
end

