-- ==== Sys2Proof/Machine/Dispatch.lean ====
section
/-! DEFINITION. The meaning of every instruction: one arm for each constructor of `Instr`, in the opcode
table's order. -/

namespace Sys2Proof.Machine

def exec (i : Instr) (s : State) : Host.Outcome State Fault Refusal :=
  match i with
  -- HOSTCMD (R100, R213 to R230)
  | .nop => Sys2Proof.Machine.execNop s
  | .waitReady => Sys2Proof.Machine.execWaitReady s
  | .enterPgmMode => Sys2Proof.Machine.execEnterPgmMode s
  | .exitPgmMode => Sys2Proof.Machine.execExitPgmMode s
  | .eraseAll => Sys2Proof.Machine.execEraseAll s
  | .assertTargetReset => Sys2Proof.Machine.execAssertTargetReset s
  | .identify => Sys2Proof.Machine.execIdentify s
  | .programWord => Sys2Proof.Machine.execProgramWord s
  | .readWord => Sys2Proof.Machine.execReadWord s
  | .verifyWord => Sys2Proof.Machine.execVerifyWord s
  | .downloadData => Sys2Proof.Machine.execDownloadData s
  | .flashOperation => Sys2Proof.Machine.execFlashOperation s
  | .clearError => Sys2Proof.Machine.execClearError s
  | .rawSetMode => Sys2Proof.Machine.execRawSetMode s
  | .rawSendCommand => Sys2Proof.Machine.execRawSendCommand s
  | .rawXferData => Sys2Proof.Machine.execRawXferData s
  | .rawXferFastData => Sys2Proof.Machine.execRawXferFastData s
  | .rawXferInstruction => Sys2Proof.Machine.execRawXferInstruction s
  -- HOSTCMD, reserved (R111)
  | .reserved0C low => Sys2Proof.Machine.execReserved0C low s
  | .reserved0F => Sys2Proof.Machine.execReserved0F s
  | .reserved15 => Sys2Proof.Machine.execReserved15 s
  | .reserved16 low => Sys2Proof.Machine.execReserved16 low s
  | .reserved18 low => Sys2Proof.Machine.execReserved18 low s
  | .reserved20 low => Sys2Proof.Machine.execReserved20 low s
  | .reserved40 low => Sys2Proof.Machine.execReserved40 low s
  | .reserved80 low => Sys2Proof.Machine.execReserved80 low s
  -- wire frames (R92 to R95)
  | .setMode6TapReset => Sys2Proof.Machine.execSetMode6TapReset s
  | .sendCommand5 opcode => Sys2Proof.Machine.execSendCommand5 opcode s
  | .xferData8 value => Sys2Proof.Machine.execXferData8 value s
  | .xferData32 value => Sys2Proof.Machine.execXferData32 value s
  | .xferFastData value => Sys2Proof.Machine.execXferFastData value s
  -- TAPIR (R102), MCHP8 (R103), CTRL32 (R104)
  | .mtapSwMtap => Sys2Proof.Machine.execMtapSwMtap s
  | .mtapSwEtap => Sys2Proof.Machine.execMtapSwEtap s
  | .mtapCommand => Sys2Proof.Machine.execMtapCommand s
  | .etapData => Sys2Proof.Machine.execEtapData s
  | .etapControl => Sys2Proof.Machine.execEtapControl s
  | .etapEjtagboot => Sys2Proof.Machine.execEtapEjtagboot s
  | .etapFastdata => Sys2Proof.Machine.execEtapFastdata s
  | .mchpStatus => Sys2Proof.Machine.execMchpStatus s
  | .mchpErase => Sys2Proof.Machine.execMchpErase s
  | .ctrlResume => Sys2Proof.Machine.execCtrlResume s
  | .ctrlProceed => Sys2Proof.Machine.execCtrlProceed s
  -- MIPS32I forms (R105)
  | .lui rt imm => Sys2Proof.Machine.execLui rt imm s
  | .ori rt rs imm => Sys2Proof.Machine.execOri rt rs imm s
  | .andi rt rs imm => Sys2Proof.Machine.execAndi rt rs imm s
  | .sw rt imm rs => Sys2Proof.Machine.execSw rt imm rs s
  | .lw rt imm rs => Sys2Proof.Machine.execLw rt imm rs s
  | .bne rs rt imm => Sys2Proof.Machine.execBne rs rt imm s
  | .mipsNop => Sys2Proof.Machine.execMipsNop s
  -- templates PRE, DL, FO, RD (R107 to R110)
  | .preP0 => Sys2Proof.Machine.execPreP0 s
  | .preP1 => Sys2Proof.Machine.execPreP1 s
  | .dlD0 => Sys2Proof.Machine.execDlD0 s
  | .dlD1 hole => Sys2Proof.Machine.execDlD1 hole s
  | .dlD2 hole => Sys2Proof.Machine.execDlD2 hole s
  | .dlD3 hole => Sys2Proof.Machine.execDlD3 hole s
  | .dlD4 => Sys2Proof.Machine.execDlD4 s
  | .foF0 => Sys2Proof.Machine.execFoF0 s
  | .foF1 => Sys2Proof.Machine.execFoF1 s
  | .foF2 hole => Sys2Proof.Machine.execFoF2 hole s
  | .foF3 hole => Sys2Proof.Machine.execFoF3 hole s
  | .foF4 => Sys2Proof.Machine.execFoF4 s
  | .foF5 hole => Sys2Proof.Machine.execFoF5 hole s
  | .foF6 => Sys2Proof.Machine.execFoF6 s
  | .foF7 op => Sys2Proof.Machine.execFoF7 op s
  | .foF8 => Sys2Proof.Machine.execFoF8 s
  | .foF9 => Sys2Proof.Machine.execFoF9 s
  | .foF10 => Sys2Proof.Machine.execFoF10 s
  | .foF11 => Sys2Proof.Machine.execFoF11 s
  | .foF12 => Sys2Proof.Machine.execFoF12 s
  | .foF13 => Sys2Proof.Machine.execFoF13 s
  | .foF14 => Sys2Proof.Machine.execFoF14 s
  | .foF15 => Sys2Proof.Machine.execFoF15 s
  | .foF16 => Sys2Proof.Machine.execFoF16 s
  | .foF17 => Sys2Proof.Machine.execFoF17 s
  | .foF18 => Sys2Proof.Machine.execFoF18 s
  | .foF19 => Sys2Proof.Machine.execFoF19 s
  | .foF20 => Sys2Proof.Machine.execFoF20 s
  | .foF21 => Sys2Proof.Machine.execFoF21 s
  | .foF22 => Sys2Proof.Machine.execFoF22 s
  | .foF23 => Sys2Proof.Machine.execFoF23 s
  | .foF24 => Sys2Proof.Machine.execFoF24 s
  | .foF25 => Sys2Proof.Machine.execFoF25 s
  | .foF26 => Sys2Proof.Machine.execFoF26 s
  | .foF27 => Sys2Proof.Machine.execFoF27 s
  | .foF28 => Sys2Proof.Machine.execFoF28 s
  | .foF29 => Sys2Proof.Machine.execFoF29 s
  | .rdA0 => Sys2Proof.Machine.execRdA0 s
  | .rdA1 hole => Sys2Proof.Machine.execRdA1 hole s
  | .rdA2 hole => Sys2Proof.Machine.execRdA2 hole s
  | .rdA3 => Sys2Proof.Machine.execRdA3 s
  | .rdA4 => Sys2Proof.Machine.execRdA4 s
  -- HOSTRSP (R101)
  | .rspOk => Sys2Proof.Machine.execRspOk s
  | .rspBusTimeout => Sys2Proof.Machine.execRspBusTimeout s
  | .rspProtocolFraming => Sys2Proof.Machine.execRspProtocolFraming s
  | .rspNvmControllerError => Sys2Proof.Machine.execRspNvmControllerError s
  | .rspDeviceUnidentified => Sys2Proof.Machine.execRspDeviceUnidentified s
  | .rspVerifyMismatch => Sys2Proof.Machine.execRspVerifyMismatch s
  | .rspIllegalState => Sys2Proof.Machine.execRspIllegalState s
  | .rspBadArgument => Sys2Proof.Machine.execRspBadArgument s
  | .rspSessionFatal => Sys2Proof.Machine.execRspSessionFatal s
  | .rspUnknownOpcode => Sys2Proof.Machine.execRspUnknownOpcode s

end Sys2Proof.Machine
end

