-- ==== Sys2Proof/Machine/HostRegisters.lean ====
section
/-! DEFINITION. The host's register file H (10_state.md R45, R46): what a read of an offset returns, and
what a write of an offset other than `H_CMD` changes. Reads have no side effect (R72), so a read is a
function of the state and not a step. -/

namespace Sys2Proof.Machine

/-- One flag as a bit. -/
def flagBit (b : Bool) : BitVec 1 := if b then 1#1 else 0#1

/-- `H_STATUS` (R46), from bit 31 down to bit 0. -/
def hStatus (s : State) : Word :=
  0#8 ++ s.bus.ones ++ tapCode s.bus.tap ++ 0#3 ++ flagBit s.bus.pins.tdi ++ flagBit s.bus.pins.tms ++
    flagBit s.bus.pins.tck ++ flagBit s.bus.pins.rst ++ flagBit s.bus.tdoLast ++ flagBit s.res.pracc ++
    flagBit s.ident.valid ++ tapSelCode s.bus.tapSel ++ devCode s.dev ++ flagBit s.fatal ++ flagBit s.busy

/-- `H_ERR` (R45): the failing opcode in bits [15:8], the code in bits [3:0]. -/
def hErr (s : State) : Word := 0#16 ++ s.err.op ++ 0#4 ++ s.err.code

/-- `H_IR` (R45): the opcode of `S.ir_sel`, or 0 when None. -/
def hIr (s : State) : Word :=
  match s.bus.irSel with
  | some r => r.opcode
  | none => 0#32

/-- `H_IRBITS` (R45): bits [5:0] of `S.ir_sel`, bit 8 set when it is not None. -/
def hIrBits (s : State) : Word :=
  match s.bus.irSel with
  | some r => 0#23 ++ 1#1 ++ 0#2 ++ r.bits
  | none => 0#32

/-- Four bytes of the device name from byte `i` on, byte `i` in bits [7:0] (R45). -/
def nameWord (name : Vector Byte 12) (i : Nat) : Word :=
  (name.toList.getD (i + 3) 0#8) ++ (name.toList.getD (i + 2) 0#8) ++ (name.toList.getD (i + 1) 0#8) ++
    (name.toList.getD i 0#8)

/-- The identity registers 0x40 to 0x70 (R45) while the identity is valid. -/
def identRegister (d : Ident) (offset : Word) : Word :=
  if offset = 0x40#32 then d.id
  else if offset = 0x44#32 then d.rowWords.setWidth 32
  else if offset = 0x48#32 then d.pageBytes
  else if offset = 0x4C#32 then d.bfmBytes
  else if offset = 0x50#32 then d.pfmBytes
  else if offset = 0x54#32 then pfmFirst
  else if offset = 0x58#32 then d.pfmLast
  else if offset = 0x5C#32 then bfmFirst
  else if offset = 0x60#32 then d.bfmLast
  else if offset = 0x64#32 then d.cfgFirst
  else if offset = 0x68#32 then nameWord d.name 0
  else if offset = 0x6C#32 then nameWord d.name 4
  else if offset = 0x70#32 then nameWord d.name 8
  else 0#32

/-- A host read (R45): the write-only `H_CMD` and every offset not listed read 0; while `S.ident.valid = 0`
the identity registers read 0. -/
def hostRead (s : State) (offset : Word) : Word :=
  if offset = 0x04#32 then s.arg0
  else if offset = 0x08#32 then s.arg1
  else if offset = 0x0C#32 then s.arg2
  else if offset = 0x10#32 then hStatus s
  else if offset = 0x14#32 then s.rsp
  else if offset = 0x18#32 then s.res0
  else if offset = 0x1C#32 then s.res1
  else if offset = 0x20#32 then hErr s
  else if offset = 0x24#32 then s.err.addr
  else if offset = 0x28#32 then s.err.obs
  else if offset = 0x2C#32 then s.err.exp
  else if offset = 0x30#32 then s.injCount
  else if offset = 0x34#32 then hIr s
  else if offset = 0x38#32 then hIrBits s
  else if s.ident.valid then identRegister s.ident offset
  else 0#32

/-- A host write to an offset other than `H_CMD` (R45): the operand registers; every other write is
ignored. -/
def hostWrite (s : State) (offset value : Word) : State :=
  if offset = 0x04#32 then { s with arg0 := value }
  else if offset = 0x08#32 then { s with arg1 := value }
  else if offset = 0x0C#32 then { s with arg2 := value }
  else s

end Sys2Proof.Machine
end

