-- ==== Sys2Proof/Machine/Fetch.lean ====
section
/-! DEFINITION. What the engine finds before it: its next instruction is the next command the host writes
(R97), or a word put before it by itself (notes/assumptions/2.md). -/

namespace Sys2Proof.Machine

/-- What the next request is. -/
inductive Fetched where
  /-- nothing is requested: the engine is idle -/
  | idle
  /-- a command while `S.busy = 1`: ignored (R34, R212) -/
  | ignored
  /-- the reset input (R280) -/
  | reset
  /-- a host write to an offset other than `H_CMD` (R45) -/
  | registerWrite (offset value : Word)
  /-- an instruction -/
  | instr (i : Instr)
  /-- bytes that are no instruction of their format -/
  | notAWord (error : DecodeError)
  deriving DecidableEq, Repr

/-- The offset of `H_CMD` (R45). -/
def hCmdOffset : Word := 0x00#32

/-- A command of a format, by its bytes: ignored while one runs (R34). -/
def fetchCommand (s : State) (format : Format) (bytes : List Byte) : Fetched :=
  if s.busy then .ignored
  else
    match decode format bytes with
    | .ok (i, _) => .instr i
    | .error e => .notAWord e

/-- The next request (R97: the opcode is `H_CMD[7:0]`, the low byte of the written word; bits [31:8] are
ignored). -/
def fetch (s : State) : Fetched :=
  match s.requests with
  | [] => .idle
  | .write offset value :: _ =>
    if offset = hCmdOffset then fetchCommand s .hostcmd (Bits.bytesLE 4 value.toNat)
    else .registerWrite offset value
  | .word format bytes :: _ => fetchCommand s format bytes
  | .reset :: _ => .reset

/-- The state with the next request taken. -/
def State.served (s : State) : State := { s with requests := s.requests.tail }

/-- The request that puts a bare word of the opcode table before the engine: a host command as a write of
`H_CMD`, any other row as a word of the format `decodeTableWord` reads it in; bits that no row has become
an empty word, which the step refuses. -/
def tableRequest (nbits w : Nat) : Request :=
  match firstFormat nbits w (tableFormats nbits w) with
  | some (.hostcmd, _) => .write hCmdOffset (BitVec.ofNat 32 (w % 2 ^ nbits))
  | some (format, _) => .word format (tableBytes format nbits w)
  | none => .word .hostcmd []

end Sys2Proof.Machine
end

