-- ==== Sys2Proof/Machine/Step.lean ====
section
/-! DEFINITION. One step: the next request of the host is served (R9: one host command is one atomic step;
R45: a register write; R280: the reset
input). With nothing requested the engine is idle and the step changes nothing. -/

namespace Sys2Proof.Machine

def step (s : State) : Host.Outcome State Fault Refusal :=
  match fetch s with
  | .idle => .next s
  | .ignored => .next s.served
  | .reset => .next s.served.restart
  | .registerWrite offset value => .next (hostWrite s.served offset value)
  | .instr i => exec i s.served
  | .notAWord e => .refused (.noSuchWord e)

/-- The state with a bare word of the opcode table, `nbits` bits `w`, put before the engine as its next
request, no command running (notes/assumptions/2.md, 3.md). -/
def State.withFetchWord (s : State) (nbits w : Nat) : State :=
  { s with requests := tableRequest nbits w :: s.requests, busy := false }

end Sys2Proof.Machine
end

