-- ==== Sys2Proof/Safety.lean ====
section
/-! DEFINITION. The terms claims are stated in: the TDO answers a command meets, the wire frames as pulse
lists (R92 to R96), the timeline of polls and injections, what a command leaves alone, the invariants of
10_state.md R43 and the reachable states. Nothing of the machine's step calls a definition of this file. -/

namespace Sys2Proof.Machine

/-! ### The answers to come (R8, R21) -/

/-- The answer to the `k`-th sample from now: the one laid out, or past their end the free value. -/
def TapSession.answer (b : TapSession) (k : Nat) : Bool :=
  b.tdoIn.getD k (Config.tdoSample (b.samples + k))

/-- The word whose bit `i` is answer `off + i`, for `i` below `n`, and 0 above (R67, R141). -/
def TapSession.answerWord (b : TapSession) (off : Nat) : Nat → Word
  | 0 => 0#32
  | n + 1 => b.answerWord off n ||| (Bits.bit32 (b.answer (off + n)) <<< n)

/-! ### Wire frames (R92 to R96) -/

/-- The levels of TMS and TDI on one pulse. -/
structure Pulse where
  tms : Bool
  tdi : Bool
  deriving DecidableEq, Repr

/-- Frame MODE (R92): `bits` pulses, TMS = value[i], TDI = 0. -/
def modeFrame (bits : Nat) (value : Word) : List Pulse :=
  (List.range bits).map fun i => ⟨value.getLsbD i, false⟩

/-- The data pulses of a scan: TDI = value[i], TMS high on the last only (R93 to R95). -/
def dataPulses (bits : Nat) (value : Word) : List Pulse :=
  (List.range bits).map fun i => ⟨decide (i + 1 = bits), value.getLsbD i⟩

/-- Frame IRSCAN (R93): `bits + 6` pulses. -/
def irFrame (bits : Nat) (opcode : Word) : List Pulse :=
  [⟨true, false⟩, ⟨true, false⟩, ⟨false, false⟩, ⟨false, false⟩] ++ dataPulses bits opcode ++
    [⟨true, false⟩, ⟨false, false⟩]

/-- Frame DRSCAN (R94): `bits + 5` pulses. -/
def drFrame (bits : Nat) (value : Word) : List Pulse :=
  [⟨true, false⟩, ⟨false, false⟩, ⟨false, false⟩] ++ dataPulses bits value ++
    [⟨true, false⟩, ⟨false, false⟩]

/-- Frame FDSCAN (R95): 38 pulses, the handshake pulse before the data. -/
def fdFrame (value : Word) : List Pulse :=
  [⟨true, false⟩, ⟨false, false⟩, ⟨false, false⟩, ⟨false, false⟩] ++ dataPulses 32 value ++
    [⟨true, false⟩, ⟨false, false⟩]

/-- The five events of a pulse, in order (R96). -/
def pulseEvents (p : Pulse) (sample : Bool) : List Event :=
  [.drive .tms p.tms, .drive .tdi p.tdi, .drive .tck false, .read sample, .drive .tck true]

/-- The events of a pulse list whose first pulse meets answer `off`. -/
def frameEvents (b : TapSession) : Nat → List Pulse → List Event
  | _, [] => []
  | off, p :: ps => pulseEvents p (b.answer off) ++ frameEvents b (off + 1) ps

/-- What a device operation does on the lines and in time: frames, edges of the reset line, delays. -/
inductive Action where
  | frame (pulses : List Pulse)
  | reset (asserted : Bool)
  | sleep (ms : Nat)
  deriving DecidableEq, Repr

/-- How many pulses a list of actions has. -/
def actionPulses : List Action → Nat
  | [] => 0
  | .frame ps :: as => ps.length + actionPulses as
  | _ :: as => actionPulses as

/-- The events of a list of actions whose first pulse meets answer `off`; RST is active low (R178). -/
def actionEvents (b : TapSession) : Nat → List Action → List Event
  | _, [] => []
  | off, .frame ps :: as => frameEvents b off ps ++ actionEvents b (off + ps.length) as
  | off, .reset a :: as => .drive .rst (!a) :: actionEvents b off as
  | off, .sleep ms :: as => .sleep ms :: actionEvents b off as

/-- The session did exactly these actions: the trace grew by their events, the answers of their pulses
were consumed, and nothing else was. -/
def Did (b b' : TapSession) (as : List Action) : Prop :=
  b'.trace = b.trace ++ actionEvents b 0 as ∧
  b'.tdoIn = b.tdoIn.drop (actionPulses as) ∧
  b'.samples = b.samples + actionPulses as

/-! ### The timeline of polls and injections -/

/-- The first status poll that is accepted, of 100 scans of 13 pulses the first of which starts at answer
`off`: bit 3 of the byte set and bit 2 clear (R172, R47); its data pulses start 3 pulses in (R94). -/
@[irreducible] def readyStatusPoll (b : TapSession) (off : Nat) : Option Nat :=
  (List.range 100).find? fun j => b.answer (off + 13 * j + 6) && !b.answer (off + 13 * j + 5)

/-- The status byte of poll `j`. -/
def statusByte (b : TapSession) (off j : Nat) : Word := b.answerWord (off + 13 * j + 3) 8

/-- The actions of StatusPoll over `n` scans: a Sleep of 10 ms between two scans (R172). -/
def statusActions : Nat → List Action
  | 0 => []
  | 1 => [.frame (drFrame 8 0x00#32)]
  | n + 2 => .frame (drFrame 8 0x00#32) :: .sleep 10 :: statusActions (n + 1)

/-- The first Control poll of an injection starting at answer `off` that shows bit 18, of 100 scans of 37
pulses after an IRSCAN of 11 (R160): bit 18 of a scan is 21 pulses in. -/
@[irreducible] def readyControlPoll (b : TapSession) (off : Nat) : Option Nat :=
  (List.range 100).find? fun j => b.answer (off + 37 * j + 32)

/-- The Control word of poll `j` of an injection starting at answer `off`. -/
def controlWord (b : TapSession) (off j : Nat) : Word := b.answerWord (off + 37 * j + 14) 32

/-- Where an injection starting at answer `off` ends, if it is serviced: 144 pulses and 37 for each poll
before the ready one (R160). -/
def injectionEnd (b : TapSession) (off : Nat) : Option Nat :=
  (readyControlPoll b off).map fun j => off + 144 + 37 * j

/-- Where `n` injections in a row starting at answer `off` end, if all are serviced. -/
def injectionsEnd (b : TapSession) : Nat → Nat → Option Nat
  | 0, off => some off
  | n + 1, off => (injectionEnd b off).bind (injectionsEnd b n)

/-- The actions of one injection that is ready on poll `j` (R160). -/
def injectionActions (word : Word) (j : Nat) : List Action :=
  .frame (irFrame 5 0x0A#32) :: List.replicate (j + 1) (.frame (drFrame 32 0x0004C000#32)) ++
    [.frame (irFrame 5 0x09#32), .frame (drFrame 32 word), .frame (irFrame 5 0x0A#32),
     .frame (drFrame 32 0x0000C000#32)]

/-- The actions of one injection whose ready bit is never seen: 100 Control polls, no Data scan (R160). -/
def injectionTimeout : List Action :=
  .frame (irFrame 5 0x0A#32) :: List.replicate 100 (.frame (drFrame 32 0x0004C000#32))

/-- The actions of injecting the words in order from answer `off` on, each ready on the poll its answers
make it ready. -/
def injectionsActions (b : TapSession) : Nat → List Word → List Action
  | _, [] => []
  | off, w :: ws =>
    match readyControlPoll b off with
    | some j => injectionActions w j ++ injectionsActions b (off + 144 + 37 * j) ws
    | none => []

/-- The actions of FastDataDrain (R182): select fast-data, two fast-data scans of 0. -/
def drainActions : List Action :=
  [.frame (irFrame 5 0x0E#32), .frame (fdFrame 0#32), .frame (fdFrame 0#32)]

/-- The handshake bit of the second fast-data scan of a drain starting at answer `off` (R182, R95). -/
def drainPracc (b : TapSession) (off : Nat) : Bool := b.answer (off + 52)

/-- The word of the second fast-data scan of a drain starting at answer `off`. -/
def drainWord (b : TapSession) (off : Nat) : Word := b.answerWord (off + 53) 32

/-- One attempt of PROGRAM_WORD starting at answer `off` (R221): 35 injections and a drain; its status word
and where it ends, if all words are serviced and the drain's handshake bit is set. -/
def programAttempt (b : TapSession) (off : Nat) : Option (Word × Nat) :=
  (injectionsEnd b 35 off).bind fun e => if drainPracc b e then some (drainWord b e, e + 87) else none

/-! ### The injected words (R107 to R110), as the rules of 42_device_control.md write them -/

/-- PRE (R107, R175). -/
def preWords : List Word := [0x3C04BF80#32, 0x3484F400#32]

/-- `hi16` of a word as an immediate (R106). -/
def hi16Word (v : Word) : Word := v >>> 16

/-- `lo16` of a word as an immediate (R106). -/
def lo16Word (v : Word) : Word := v &&& 0xFFFF#32

/-- DL filled from `ramAddr` and `data` (R108, R179). -/
def dlWords (ramAddr data : Word) : List Word :=
  [0x3C10A000#32, 0x3C080000#32 ||| hi16Word data, 0x35080000#32 ||| lo16Word data,
   0xAE080000#32 ||| lo16Word ramAddr, 0xAC880030#32]

/-- FO filled from `op`, `flashAddr` and `ramAddr` (R109, R180). -/
def foWords (op flashAddr ramAddr : Word) : List Word :=
  [0x3C04BF80#32, 0x3484F400#32, 0x3C080000#32 ||| hi16Word flashAddr,
   0x35080000#32 ||| lo16Word flashAddr, 0xAC880020#32, 0x34080000#32 ||| lo16Word ramAddr, 0xAC880040#32,
   0x34084000#32 ||| (op &&& 0xF#32), 0xAC880000#32, 0x3C08AA99#32, 0x35086655#32, 0x3C095566#32,
   0x352999AA#32, 0x340A8000#32, 0xAC880010#32, 0xAC890010#32, 0xAC8A0008#32, 0x8C880000#32,
   0x31088000#32, 0x1500FFFD#32, 0x00000000#32, 0x00000000#32, 0x00000000#32, 0x00000000#32,
   0x00000000#32, 0x34084000#32, 0xAC880004#32, 0x8C880000#32, 0x3C13FF20#32, 0xAE680000#32]

/-- RD filled from `addr`, read through `v = addr | 0xA0000000` (R74, R110, R183). -/
def rdWords (addr : Word) : List Word :=
  [0x3C13FF20#32, 0x3C080000#32 ||| hi16Word (addr ||| 0xA0000000#32),
   0x35080000#32 ||| lo16Word (addr ||| 0xA0000000#32), 0x8D090000#32, 0xAE690000#32]

/-- The actions of one attempt of PROGRAM_WORD(a, v) starting at answer `off` (R221, R116). -/
def attemptActions (b : TapSession) (off : Nat) (a v : Word) : List Action :=
  injectionsActions b off (dlWords 0#32 v ++ foWords 0x1#32 a 0#32) ++ drainActions

/-! ### What a command leaves alone -/

/-- The operand registers are as they were (R32), and so are the requests still to come and the catalog
(R40). -/
def OperandsKept (s t : State) : Prop :=
  t.arg0 = s.arg0 ∧ t.arg1 = s.arg1 ∧ t.arg2 = s.arg2 ∧ t.requests = s.requests ∧
  t.catalog = s.catalog

/-- The error latch is as it was (R36). -/
def LatchKept (s t : State) : Prop := t.fatal = s.fatal ∧ t.err = s.err

/-- The device state and the identity registers are as they were. -/
def DeviceKept (s t : State) : Prop := t.dev = s.dev ∧ t.ident = s.ident

/-- The device state dropped to Unknown and the identity with it, its other registers as they were (R171,
R226). -/
def DeviceDropped (s t : State) : Prop :=
  t.dev = .unknown ∧ t.ident = { s.ident with valid := false }

/-- The session did exactly these actions, the last of them that pulses a scan (TMS and TDI left low, the
clock high, R93 to R95), the target-reset line left at `rst`; `S.tdo_last` is the last sample (R24). -/
def DidScans (b b' : TapSession) (as : List Action) (rst : Bool) : Prop :=
  Did b b' as ∧ b'.tdoLast = b.answer (actionPulses as - 1) ∧
  b'.pins = { tms := false, tdi := false, tck := true, rst := rst }

/-- The TAP session, the result register and the poll registers are as they were. -/
def WireKept (s t : State) : Prop := t.bus = s.bus ∧ t.res = s.res ∧ t.poll = s.poll

/-- A command has ended with this response (R99), the engine idle. -/
def Ended (t : State) (code r0 r1 : Word) : Prop :=
  t.rsp = code ∧ t.res0 = r0 ∧ t.res1 = r1 ∧ t.busy = false ∧ t.seq = { op := none, step := 0 }

/-- The state after `refuse` (R252): the response, and the engine idle; nothing else. -/
def refusedState (code : Word) (s : State) : State :=
  { s with rsp := code, res0 := 0#32, res1 := 0#32, busy := false, seq := { op := none, step := 0 } }

/-- The latch and the response of a raised error (R250), for opcode `c`. -/
def Raised (t : State) (code : BitVec 4) (c : Byte) (addr obs exp : Word) : Prop :=
  t.fatal = true ∧ t.err = { code := code, op := c, addr := addr, obs := obs, exp := exp } ∧
  Ended t (code.setWidth 32) obs exp

/-- Between scans (R286): Run-Test/Idle, no high pulse counted. -/
def AtIdle (b : TapSession) : Prop := b.tap = .runTestIdle ∧ b.ones = 0#3

/-- The addressed instruction register after an IR scan of five bits (R28). -/
def ir5 (opcode : Word) : Option IrSel := some { bits := 5#6, opcode := opcode }

/-! ### The host commands, restated from the rules -/

/-- The opcode of a host command (R100). -/
def hostOpcode : Instr → Option Byte
  | .nop => some 0x00#8
  | .waitReady => some 0x01#8
  | .enterPgmMode => some 0x02#8
  | .exitPgmMode => some 0x03#8
  | .eraseAll => some 0x04#8
  | .assertTargetReset => some 0x05#8
  | .identify => some 0x06#8
  | .programWord => some 0x07#8
  | .readWord => some 0x08#8
  | .verifyWord => some 0x09#8
  | .downloadData => some 0x0A#8
  | .flashOperation => some 0x0B#8
  | .clearError => some 0x0E#8
  | .rawSetMode => some 0x10#8
  | .rawSendCommand => some 0x11#8
  | .rawXferData => some 0x12#8
  | .rawXferFastData => some 0x13#8
  | .rawXferInstruction => some 0x14#8
  | _ => none

/-- The granule from `fa` on lies in one flash window of the identity (R231), in numbers without wrap. -/
def inOneWindow (d : Ident) (fa g : Nat) : Bool :=
  d.valid &&
    (decide (0x1D000000 ≤ fa ∧ fa + (g - 1) ≤ 0x1D000000 + d.pfmKB.toNat * 1024 - 1) ||
     decide (0x1FC00000 ≤ fa ∧ fa + (g - 1) ≤ 0x1FC00000 + d.bfmKB.toNat * 1024 - 1))

/-- A granule check of R231. -/
def onGranule (d : Ident) (fa g : Nat) : Bool := decide (g ≠ 0 ∧ fa % g = 0) && inOneWindow d fa g

/-- The operand checks of FLASH_OPERATION (R225, R231): one of the four codes, `ramAddr`, the address. -/
def flashOperandsOk (d : Ident) (op fa ramAddr : Nat) : Bool :=
  decide (ramAddr % 4 = 0 ∧ ramAddr ≤ 0x7FFC) &&
    (match op with
    | 0x1 => decide (fa % 4 = 0) && inOneWindow d fa 4
    | 0x3 => onGranule d fa (d.rowWords.toNat * 4)
    | 0x4 => onGranule d fa (d.rowWords.toNat * 4 * 8)
    | 0x5 => decide (fa % 4 = 0)
    | _ => false)

/-- The operand check of each host command (R213 to R231). -/
def operandsOk (i : Instr) (s : State) : Bool :=
  match i with
  | .programWord => decide (s.arg0.toNat % 4 = 0) && inOneWindow s.ident s.arg0.toNat 4
  | .readWord | .verifyWord => decide (s.arg0.toNat % 4 = 0)
  | .downloadData => decide (s.arg0.toNat % 4 = 0 ∧ s.arg0.toNat ≤ 0x7FFC)
  | .flashOperation => flashOperandsOk s.ident s.arg0.toNat s.arg1.toNat s.arg2.toNat
  | .rawSetMode | .rawSendCommand | .rawXferData => decide (s.arg0.toNat ≤ 32)
  | _ => true

/-- The legality table (R171), with NOP and CLEAR_ERROR legal in every state (R212). -/
def allowedNow (i : Instr) (s : State) : Bool :=
  match i with
  | .enterPgmMode => decide (s.dev = .mtapSelected)
  | .exitPgmMode | .downloadData | .readWord | .verifyWord | .identify => decide (s.dev = .debugMode)
  | .eraseAll | .programWord | .flashOperation => decide (s.dev = .debugMode) && s.ident.valid
  | _ => true

/-- NOP and CLEAR_ERROR, which the fatal latch lets through (R212 step 2). -/
def passesLatch (i : Instr) : Bool := decide (i = .nop) || decide (i = .clearError)

/-- A host command is accepted: steps 2 to 4 of Exec (R212) pass. -/
def Accepted (i : Instr) (s : State) : Prop :=
  (s.fatal = true → passesLatch i = true) ∧ allowedNow i s = true ∧ operandsOk i s = true

/-- `S.dev` after a command of R100 that responded OK, from R171's last column; NOP and CLEAR_ERROR do not
touch it (R213, R214). -/
def devAfter (i : Instr) (d : DevState) : DevState :=
  match i with
  | .waitReady => .mtapSelected
  | .enterPgmMode | .eraseAll | .downloadData | .flashOperation | .programWord | .readWord | .verifyWord
  | .identify => .debugMode
  | .exitPgmMode => .reset
  | .assertTargetReset | .rawSetMode | .rawSendCommand | .rawXferData | .rawXferFastData
  | .rawXferInstruction => .unknown
  | _ => d

/-- The opcode and the injected words of the commands that inject a template first (R221 to R225, R210). -/
def injects (i : Instr) (s : State) : Option (Byte × List Word) :=
  match i with
  | .identify => some (0x06#8, rdWords 0xBF80F220#32)
  | .programWord => some (0x07#8, dlWords 0#32 s.arg1 ++ foWords 0x1#32 s.arg0 0#32)
  | .readWord => some (0x08#8, rdWords s.arg0)
  | .verifyWord => some (0x09#8, rdWords s.arg0)
  | .downloadData => some (0x0A#8, dlWords s.arg0 s.arg1)
  | .flashOperation => some (0x0B#8, foWords s.arg0 s.arg1 s.arg2)
  | _ => none

/-- An OK end (R212 step 5): response 0 with the two results, the operands and the error latch as they were,
`S.inj_count` at `count`. -/
def OkEnd (s t : State) (r0 r1 count : Word) : Prop :=
  Ended t 0#32 r0 r1 ∧ OperandsKept s t ∧ LatchKept s t ∧ t.injCount = count

/-- An error end (R250, R251): the error is latched and reported, the operands as they were, `S.inj_count` at
the number injected. -/
def ErrorEnd (s t : State) (code : BitVec 4) (c : Byte) (addr obs exp count : Word) : Prop :=
  Raised t code c addr obs exp ∧ OperandsKept s t ∧ t.injCount = count

/-- The shadow is between scans, with this addressed instruction register and this TAP selected. -/
def ShadowAt (b : TapSession) (ir : Option IrSel) (sel : TapSel) : Prop :=
  AtIdle b ∧ b.irSel = ir ∧ b.tapSel = sel

/-! ### The raw commands (R226 to R230) -/

/-- The end of a raw command: OK, and `S.dev` and the identity dropped (R226). -/
def RawEnd (s t : State) (r0 r1 count : Word) : Prop := OkEnd s t r0 r1 count ∧ DeviceDropped s t

/-- The shadow fields of a session. -/
structure Shadow where
  tap    : TapState
  ones   : BitVec 3
  irSel  : Option IrSel
  tapSel : TapSel

/-- The shadow of a session. -/
def TapSession.shadow (b : TapSession) : Shadow := ⟨b.tap, b.ones, b.irSel, b.tapSel⟩

/-- The shadow's advance by one pulse (R26 to R29). -/
def Shadow.advance (h : Shadow) (tms : Bool) : Shadow :=
  let tap := shadowTap h.tap h.ones tms
  ⟨tap, nextOnes h.ones tms, if tap = .testLogicReset then none else h.irSel,
    if tap = .testLogicReset then .unknownSel else h.tapSel⟩

/-- The shadow after a list of pulses. -/
def Shadow.after (h : Shadow) (ps : List Pulse) : Shadow := ps.foldl (fun h p => h.advance p.tms) h

/-- SetMode(bits, value) was done as a raw command (R132, R226). -/
def ModeSet (s t : State) (bits : Nat) (value : Word) : Prop :=
  RawEnd s t (s.bus.answerWord 0 bits) 0#32 0#32 ∧ t.res = s.res ∧
  (bits = 0 → t.bus = s.bus) ∧
  (bits ≠ 0 →
    Did s.bus t.bus [.frame (modeFrame bits value)] ∧
    t.bus.tdoLast = s.bus.answer (bits - 1) ∧
    t.bus.pins = { tms := value.getLsbD (bits - 1), tdi := false, tck := true, rst := s.bus.pins.rst } ∧
    t.bus.shadow = s.bus.shadow.after (modeFrame bits value))

/-- SendCommand(bits, opcode) was done as a raw command (R133, R227): the selection stands at its end. -/
def CommandSent (s t : State) (bits : Nat) (opcode : Word) : Prop :=
  RawEnd s t 0#32 0#32 0#32 ∧ t.res = s.res ∧
  (bits = 0 → t.bus = s.bus) ∧
  (bits ≠ 0 →
    DidScans s.bus t.bus [.frame (irFrame bits opcode)] s.bus.pins.rst ∧
    t.bus.tap = (s.bus.shadow.after (irFrame bits opcode)).tap ∧
    t.bus.ones = (s.bus.shadow.after (irFrame bits opcode)).ones ∧
    t.bus.irSel =
      some { bits := BitVec.ofNat 6 bits, opcode := BitVec.ofNat 32 (opcode.toNat % 2 ^ bits) } ∧
    t.bus.tapSel =
      (if bits = 5 ∧ opcode.toNat % 32 = 0x04 then .mtap
       else if bits = 5 ∧ opcode.toNat % 32 = 0x05 then .etap
       else (s.bus.shadow.after (irFrame bits opcode)).tapSel))

/-- XferData(bits, value) was done as a raw command (R135, R228). -/
def DataTransferred (s t : State) (bits : Nat) (value : Word) : Prop :=
  RawEnd s t (s.bus.answerWord 3 bits) 0#32 0#32 ∧ t.res = s.res ∧
  (bits = 0 → t.bus = s.bus) ∧
  (bits ≠ 0 →
    DidScans s.bus t.bus [.frame (drFrame bits value)] s.bus.pins.rst ∧
    t.bus.shadow = s.bus.shadow.after (drFrame bits value))

/-- XferFastData(value) was done as a raw command (R138, R229). -/
def FastDataTransferred (s t : State) (value : Word) : Prop :=
  RawEnd s t (s.bus.answerWord 4 32) (Bits.bit32 (s.bus.answer 3)) 0#32 ∧
  t.res = { value := s.bus.answerWord 4 32, pracc := s.bus.answer 3 } ∧
  DidScans s.bus t.bus [.frame (fdFrame value)] s.bus.pins.rst ∧
  t.bus.shadow = s.bus.shadow.after (fdFrame value)

/-- XferInstruction(word) was done as a raw command (R160, R230): serviced on the first poll that shows the
ready bit, or reported as not serviced. -/
def InstructionTransferred (s t : State) (word : Word) : Prop :=
  (∀ j, readyControlPoll s.bus 0 = some j →
    RawEnd s t (controlWord s.bus 0 j) 1#32 1#32 ∧
    t.res = { value := controlWord s.bus 0 j, pracc := true } ∧
    DidScans s.bus t.bus (injectionActions word j) s.bus.pins.rst) ∧
  (readyControlPoll s.bus 0 = none →
    RawEnd s t (controlWord s.bus 0 99) 0#32 0#32 ∧
    t.res = { value := controlWord s.bus 0 99, pracc := false } ∧
    DidScans s.bus t.bus injectionTimeout s.bus.pins.rst) ∧
  (AtIdle s.bus → ShadowAt t.bus (ir5 0x0A#32) s.bus.tapSel)

/-! ### Rows of the opcode table run by themselves (notes/assumptions/2.md) -/

/-- The five-bit IR scans of the table (R102, R133). -/
def irRow : Instr → Option Word
  | .sendCommand5 opcode => some (opcode.setWidth 32)
  | .mtapSwMtap => some 0x04#32
  | .mtapSwEtap => some 0x05#32
  | .mtapCommand => some 0x07#32
  | .etapData => some 0x09#32
  | .etapControl => some 0x0A#32
  | .etapEjtagboot => some 0x0C#32
  | .etapFastdata => some 0x0E#32
  | _ => none

/-- The data scans of the table, with their width (R103, R104, R135). -/
def drRow : Instr → Option (Nat × Word)
  | .xferData8 value => some (8, value.setWidth 32)
  | .xferData32 value => some (32, value)
  | .mchpStatus => some (8, 0x00#32)
  | .mchpErase => some (8, 0xFC#32)
  | .ctrlResume => some (32, 0x0004C000#32)
  | .ctrlProceed => some (32, 0x0000C000#32)
  | .nop | .waitReady | .enterPgmMode | .exitPgmMode | .eraseAll | .assertTargetReset | .identify |
    .programWord | .readWord | .verifyWord | .downloadData | .flashOperation | .clearError | .rawSetMode
    | .rawSendCommand | .rawXferData | .rawXferFastData | .rawXferInstruction | .reserved0C _ |
    .reserved0F | .reserved15 | .reserved16 _ | .reserved18 _ | .reserved20 _ | .reserved40 _ |
    .reserved80 _ | .setMode6TapReset | .sendCommand5 _ | .xferFastData _ | .mtapSwMtap | .mtapSwEtap |
    .mtapCommand | .etapData | .etapControl | .etapEjtagboot | .etapFastdata | .lui _ _ | .ori _ _ _ |
    .andi _ _ _ | .sw _ _ _ | .lw _ _ _ | .bne _ _ _ | .mipsNop | .preP0 | .preP1 | .dlD0 | .dlD1 _ |
    .dlD2 _ | .dlD3 _ | .dlD4 | .foF0 | .foF1 | .foF2 _ | .foF3 _ | .foF4 | .foF5 _ | .foF6 | .foF7 _ |
    .foF8 | .foF9 | .foF10 | .foF11 | .foF12 | .foF13 | .foF14 | .foF15 | .foF16 | .foF17 | .foF18 |
    .foF19 | .foF20 | .foF21 | .foF22 | .foF23 | .foF24 | .foF25 | .foF26 | .foF27 | .foF28 | .foF29 |
    .rdA0 | .rdA1 _ | .rdA2 _ | .rdA3 | .rdA4 | .rspOk | .rspBusTimeout | .rspProtocolFraming |
    .rspNvmControllerError | .rspDeviceUnidentified | .rspVerifyMismatch | .rspIllegalState |
    .rspBadArgument | .rspSessionFatal | .rspUnknownOpcode => none

/-- A MIPS32I word from its major opcode and fields (R105). -/
def itype (major : Word) (rs rt : BitVec 5) (imm : Half) : Word :=
  major ||| rs.setWidth 32 <<< 21 ||| rt.setWidth 32 <<< 16 ||| imm.setWidth 32

/-- The injected words of the table (R105 to R110). -/
def injectedRow : Instr → Option Word
  | .lui rt imm => some (itype 0x3C000000#32 0#5 rt imm)
  | .ori rt rs imm => some (itype 0x34000000#32 rs rt imm)
  | .andi rt rs imm => some (itype 0x30000000#32 rs rt imm)
  | .sw rt imm rs => some (itype 0xAC000000#32 rs rt imm)
  | .lw rt imm rs => some (itype 0x8C000000#32 rs rt imm)
  | .bne rs rt imm => some (itype 0x14000000#32 rs rt imm)
  | .mipsNop => some 0x00000000#32
  | .preP0 => some 0x3C04BF80#32
  | .preP1 => some 0x3484F400#32
  | .dlD0 => some 0x3C10A000#32
  | .dlD1 hole => some (0x3C080000#32 ||| hole.setWidth 32)
  | .dlD2 hole => some (0x35080000#32 ||| hole.setWidth 32)
  | .dlD3 hole => some (0xAE080000#32 ||| hole.setWidth 32)
  | .dlD4 => some 0xAC880030#32
  | .foF0 => some 0x3C04BF80#32
  | .foF1 => some 0x3484F400#32
  | .foF2 hole => some (0x3C080000#32 ||| hole.setWidth 32)
  | .foF3 hole => some (0x35080000#32 ||| hole.setWidth 32)
  | .foF4 => some 0xAC880020#32
  | .foF5 hole => some (0x34080000#32 ||| hole.setWidth 32)
  | .foF6 => some 0xAC880040#32
  | .foF7 op => some (0x34084000#32 ||| op.setWidth 32)
  | .foF8 => some 0xAC880000#32
  | .foF9 => some 0x3C08AA99#32
  | .foF10 => some 0x35086655#32
  | .foF11 => some 0x3C095566#32
  | .foF12 => some 0x352999AA#32
  | .foF13 => some 0x340A8000#32
  | .foF14 => some 0xAC880010#32
  | .foF15 => some 0xAC890010#32
  | .foF16 => some 0xAC8A0008#32
  | .foF17 => some 0x8C880000#32
  | .foF18 => some 0x31088000#32
  | .foF19 => some 0x1500FFFD#32
  | .foF20 => some 0x00000000#32
  | .foF21 => some 0x00000000#32
  | .foF22 => some 0x00000000#32
  | .foF23 => some 0x00000000#32
  | .foF24 => some 0x00000000#32
  | .foF25 => some 0x34084000#32
  | .foF26 => some 0xAC880004#32
  | .foF27 => some 0x8C880000#32
  | .foF28 => some 0x3C13FF20#32
  | .foF29 => some 0xAE680000#32
  | .rdA0 => some 0x3C13FF20#32
  | .rdA1 hole => some (0x3C080000#32 ||| hole.setWidth 32)
  | .rdA2 hole => some (0x35080000#32 ||| hole.setWidth 32)
  | .rdA3 => some 0x8D090000#32
  | .rdA4 => some 0xAE690000#32
  | .nop | .waitReady | .enterPgmMode | .exitPgmMode | .eraseAll | .assertTargetReset | .identify |
    .programWord | .readWord | .verifyWord | .downloadData | .flashOperation | .clearError | .rawSetMode
    | .rawSendCommand | .rawXferData | .rawXferFastData | .rawXferInstruction | .reserved0C _ |
    .reserved0F | .reserved15 | .reserved16 _ | .reserved18 _ | .reserved20 _ | .reserved40 _ |
    .reserved80 _ | .setMode6TapReset | .sendCommand5 _ | .xferData8 _ | .xferData32 _ | .xferFastData _
    | .mtapSwMtap | .mtapSwEtap | .mtapCommand | .etapData | .etapControl | .etapEjtagboot |
    .etapFastdata | .mchpStatus | .mchpErase | .ctrlResume | .ctrlProceed | .rspOk | .rspBusTimeout |
    .rspProtocolFraming | .rspNvmControllerError | .rspDeviceUnidentified | .rspVerifyMismatch |
    .rspIllegalState | .rspBadArgument | .rspSessionFatal | .rspUnknownOpcode => none

/-- The reserved host opcodes (R111). -/
def isReserved : Instr → Bool
  | .reserved0C _ | .reserved0F | .reserved15 | .reserved16 _ | .reserved18 _ | .reserved20 _
  | .reserved40 _ | .reserved80 _ => true
  | _ => false

/-- The response rows, with the results R98 gives the code: none of its own for OK, the latched observed and
expected values for an error, zeros for a refusal. -/
def responseRow (s : State) : Instr → Option (Word × Word × Word)
  | .rspOk => some (0#32, s.res0, s.res1)
  | .rspBusTimeout => some (1#32, s.err.obs, s.err.exp)
  | .rspProtocolFraming => some (2#32, s.err.obs, s.err.exp)
  | .rspNvmControllerError => some (3#32, s.err.obs, s.err.exp)
  | .rspDeviceUnidentified => some (4#32, s.err.obs, s.err.exp)
  | .rspVerifyMismatch => some (5#32, s.err.obs, s.err.exp)
  | .rspIllegalState => some (8#32, 0#32, 0#32)
  | .rspBadArgument => some (9#32, 0#32, 0#32)
  | .rspSessionFatal => some (10#32, 0#32, 0#32)
  | .rspUnknownOpcode => some (11#32, 0#32, 0#32)
  | _ => none

/-- The TAP states the shadow passes through, one for each pulse. -/
def tapsAlong : List Pulse → TapSession → List TapState
  | [], _ => []
  | p :: ps, b => (bitXfer p.tms p.tdi b).tap :: tapsAlong ps (bitXfer p.tms p.tdi b)

/-! ### Invariants -/

/-- I1 to I6 of R43. -/
def Inv43 (s : State) : Prop :=
  (s.ident.valid = true → s.dev = .debugMode) ∧
  (s.dev = .mtapSelected →
    s.bus.pins.rst = true ∧ s.bus.tap = .runTestIdle ∧ s.bus.tapSel = .mtap ∧ s.bus.irSel = ir5 0x07#32) ∧
  (s.dev = .debugMode →
    s.bus.pins.rst = false ∧ s.bus.tap = .runTestIdle ∧ s.bus.tapSel = .etap) ∧
  s.bus.pins.tck = Param.tckIdleLevel ∧
  (s.seq = { op := none, step := 0 } ∧ s.busy = false) ∧
  (s.fatal = true ↔ 1 ≤ s.err.code.toNat ∧ s.err.code.toNat ≤ 5)

/-- In Run-Test/Idle no high pulse is counted: the graph enters it with TMS low only (R26). It makes R43
inductive: with four high pulses counted there, a scan's header would reach Test-Logic-Reset. -/
def IdleCountsNone (s : State) : Prop := s.bus.tap = .runTestIdle → s.bus.ones = 0#3

/-- The inductive invariant: R43 and the count. -/
def EngineInv (s : State) : Prop := Inv43 s ∧ IdleCountsNone s

/-- A legal CATALOG (R40): its last record is the sentinel, whose id is 0, and no record before it has
id 0. -/
def LegalCatalog (catalog : List DeviceRecord) : Prop :=
  ∃ (records : List DeviceRecord) (sentinel : DeviceRecord),
    catalog = records ++ [sentinel] ∧ sentinel.id = 0#32 ∧ ∀ r ∈ records, r.id ≠ 0#32

/-- The states of a run from reset, of an engine with any legal catalog: the environment may lay out any TDO
answers and any requests at any time, and the engine steps. -/
inductive Reachable : State → Prop where
  | reset (catalog : List DeviceRecord) :
      LegalCatalog catalog → Reachable { State.reset with catalog := catalog }
  | environment (s : State) (tdoIn : List Bool) (requests : List Request) :
      Reachable s → Reachable { s with bus := { s.bus with tdoIn := tdoIn }, requests := requests }
  | step (s t : State) : Reachable s → step s = .next t → Reachable t

end Sys2Proof.Machine
end

