-- ==== Sys2Proof/Certificates/Slice0/Obligations.lean ====
section
/-! DEFINITION. The statements for the provers, each from the numbered rules of spec/ (OBLIGATIONS.json names
the rule each cites). The terms are those of Safety.lean. No statement is about a run from reset alone. -/

open Sys2Proof Sys2Proof.Machine

/-- When the next request is a write of H_CMD and no command runs, and the low byte of the written word
decodes to the instruction i, the step is exec of i on the state with that request taken: the operand
registers are those of the moment of the write, and bits [31:8] of the word do not matter. (States R97.) -/
def Obligations.StepRunsHostCommand : Prop :=
  ∀ (s : State) (value : Word) (rest : List Request) (i : Instr),
    s.requests = .write 0x00#32 value :: rest → s.busy = false →
    decode .hostcmd [value.setWidth 8] = .ok (i, []) →
    step s = exec i { s with requests := rest }

/-- The model's own request for a row that no host opcode encodes (assumption 2): when the next request is a
word of a format, no command runs and the bytes decode to i, the step is exec of i on the state with
that request taken. A bare word put in place by withFetchWord runs as the instruction decodeTableWord
reads, on the state with no command running. (From 30_encoding.md rule R90, notes/assumptions/2.md,
notes/assumptions/3.md.) -/
def Obligations.StepRunsTableWord : Prop :=
  (∀ (s : State) (f : Format) (bytes left : List Byte) (rest : List Request) (i : Instr),
    s.requests = .word f bytes :: rest → s.busy = false → decode f bytes = .ok (i, left) →
    step s = exec i { s with requests := rest }) ∧
  (∀ (s : State) (nbits w : Nat) (i : Instr), decodeTableWord nbits w = some i →
    step (s.withFetchWord nbits w) = exec i { s with busy := false })

/-- A host write of H_ARG0, H_ARG1 or H_ARG2 writes that operand register and nothing else, also while a
command runs (the model's choice, assumption 16: R34 is silent there); a write of any offset but these
and H_CMD is ignored; a write of H_CMD or a bare word while S.busy is 1 is ignored; with nothing
requested the step changes nothing (the request list is the model's own, assumption 2). The reset input,
in every state, a command running included, answers the state after reset, its nine events appended to
the trace and the answers and requests to come as they were (the model's choice, assumption 7); its
working registers are those of State.reset, whose values R50 leaves unspecified (assumption 4); the
catalog, a parameter, stays (assumption 8). (From R34, R45, R280, R281, notes/assumptions/2.md,
notes/assumptions/4.md, notes/assumptions/7.md, notes/assumptions/8.md, notes/assumptions/16.md.) -/
def Obligations.StepServesHostWrites : Prop :=
  ∀ s : State,
    (s.requests = [] → step s = .next s) ∧
    (∀ (offset value : Word) (rest : List Request), s.requests = .write offset value :: rest →
      (offset = 0x04#32 → step s = .next { s with requests := rest, arg0 := value }) ∧
      (offset = 0x08#32 → step s = .next { s with requests := rest, arg1 := value }) ∧
      (offset = 0x0C#32 → step s = .next { s with requests := rest, arg2 := value }) ∧
      (offset ≠ 0x00#32 → offset ≠ 0x04#32 → offset ≠ 0x08#32 → offset ≠ 0x0C#32 →
        step s = .next { s with requests := rest }) ∧
      (offset = 0x00#32 → s.busy = true → step s = .next { s with requests := rest })) ∧
    (∀ (f : Format) (bytes : List Byte) (rest : List Request), s.requests = .word f bytes :: rest →
      s.busy = true → step s = .next { s with requests := rest }) ∧
    (∀ rest : List Request, s.requests = .reset :: rest →
      ∃ t, step s = .next t ∧ t.trace = s.trace ++ State.reset.trace ∧
        t = { State.reset with
          bus := { State.reset.bus with
            tdoIn := s.bus.tdoIn, samples := s.bus.samples, log := t.bus.log }
          requests := rest
          catalog := s.catalog })

/-- A host read returns the register R45 lists at the offset: the operands, the response and result
registers, the error latch packed into H_ERR and its three words, the injected count, the addressed
instruction register; while the identity is valid the identity registers with the derived values of R39,
and while it is not, 0 at every offset from 0x40 to 0x70; 0 at H_CMD and at an offset not listed. (From
R38, R39, R45.) -/
def Obligations.HostReadsRegisterFile : Prop :=
  ∀ s : State,
    hostRead s 0x00#32 = 0#32 ∧ hostRead s 0x04#32 = s.arg0 ∧ hostRead s 0x08#32 = s.arg1 ∧
    hostRead s 0x0C#32 = s.arg2 ∧ hostRead s 0x14#32 = s.rsp ∧ hostRead s 0x18#32 = s.res0 ∧
    hostRead s 0x1C#32 = s.res1 ∧
    hostRead s 0x20#32 = s.err.op.setWidth 32 <<< 8 ||| s.err.code.setWidth 32 ∧
    hostRead s 0x24#32 = s.err.addr ∧ hostRead s 0x28#32 = s.err.obs ∧ hostRead s 0x2C#32 = s.err.exp ∧
    hostRead s 0x30#32 = s.injCount ∧
    (s.bus.irSel = none → hostRead s 0x34#32 = 0#32 ∧ hostRead s 0x38#32 = 0#32) ∧
    (∀ r, s.bus.irSel = some r →
      hostRead s 0x34#32 = r.opcode ∧ hostRead s 0x38#32 = 0x100#32 ||| r.bits.setWidth 32) ∧
    (s.ident.valid = false →
      ∀ offset : Word, 0x40#32 ≤ offset → offset ≤ 0x70#32 → hostRead s offset = 0#32) ∧
    (s.ident.valid = true →
      hostRead s 0x40#32 = s.ident.id ∧
      (hostRead s 0x44#32).toNat = s.ident.rowWords.toNat ∧
      (hostRead s 0x48#32).toNat = s.ident.rowWords.toNat * 4 * 8 ∧
      (hostRead s 0x4C#32).toNat = s.ident.bfmKB.toNat * 1024 ∧
      (hostRead s 0x50#32).toNat = s.ident.pfmKB.toNat * 1024 ∧
      hostRead s 0x54#32 = 0x1D000000#32 ∧
      (hostRead s 0x58#32).toNat = 0x1D000000 + s.ident.pfmKB.toNat * 1024 - 1 ∧
      hostRead s 0x5C#32 = 0x1FC00000#32 ∧
      (hostRead s 0x60#32).toNat = 0x1FC00000 + s.ident.bfmKB.toNat * 1024 - 1 ∧
      (hostRead s 0x64#32).toNat = 0x1FC00000 + s.ident.bfmKB.toNat * 1024 - 16 ∧
      hostRead s 0x68#32 =
        s.ident.name[3] ++ s.ident.name[2] ++ s.ident.name[1] ++ s.ident.name[0] ∧
      hostRead s 0x6C#32 =
        s.ident.name[7] ++ s.ident.name[6] ++ s.ident.name[5] ++ s.ident.name[4] ∧
      hostRead s 0x70#32 =
        s.ident.name[11] ++ s.ident.name[10] ++ s.ident.name[9] ++ s.ident.name[8]) ∧
    hostRead s 0x3C#32 = 0#32 ∧
    (∀ offset : Word, 0x70#32 < offset → hostRead s offset = 0#32) ∧
    (∀ offset : Word, offset &&& 3#32 ≠ 0#32 → hostRead s offset = 0#32)

/-- A read of H_STATUS (offset 0x10) has S.busy in bit 0, S.fatal in bit 1, the code of S.dev in bits [3:2]
(0 Unknown, 1 MtapSelected, 2 DebugMode, 3 Reset: R35), of S.tap_sel in [5:4] (0 UnknownSel, 1 MTAP, 2
ETAP: R29), S.ident.valid in 6, S.res.pracc in 7, S.tdo_last in 8, the pins rst, tck, tms and tdi in 9
to 12, zeros in [15:13], the code of S.tap in [20:16] (0 TestLogicReset to 15 UpdateIR in the order of
R25, 16 UnknownTap), S.ones in [23:21] and zeros above. (States R46.) -/
def Obligations.StatusRegisterPacksState : Prop :=
  ∀ s : State,
    (hostRead s 0x10#32).getLsbD 0 = s.busy ∧ (hostRead s 0x10#32).getLsbD 1 = s.fatal ∧
    (∀ p ∈ [(DevState.unknown, 0#2), (.mtapSelected, 1#2), (.debugMode, 2#2), (.reset, 3#2)],
      s.dev = p.1 → (hostRead s 0x10#32).extractLsb' 2 2 = p.2) ∧
    (∀ p ∈ [(TapSel.unknownSel, 0#2), (.mtap, 1#2), (.etap, 2#2)],
      s.bus.tapSel = p.1 → (hostRead s 0x10#32).extractLsb' 4 2 = p.2) ∧
    (hostRead s 0x10#32).getLsbD 6 = s.ident.valid ∧ (hostRead s 0x10#32).getLsbD 7 = s.res.pracc ∧
    (hostRead s 0x10#32).getLsbD 8 = s.bus.tdoLast ∧ (hostRead s 0x10#32).getLsbD 9 = s.bus.pins.rst ∧
    (hostRead s 0x10#32).getLsbD 10 = s.bus.pins.tck ∧ (hostRead s 0x10#32).getLsbD 11 = s.bus.pins.tms ∧
    (hostRead s 0x10#32).getLsbD 12 = s.bus.pins.tdi ∧
    (hostRead s 0x10#32).extractLsb' 13 3 = 0#3 ∧
    (∀ p ∈ [(TapState.testLogicReset, 0#5), (.runTestIdle, 1#5), (.selectDR, 2#5), (.captureDR, 3#5),
        (.shiftDR, 4#5), (.exit1DR, 5#5), (.pauseDR, 6#5), (.exit2DR, 7#5), (.updateDR, 8#5),
        (.selectIR, 9#5), (.captureIR, 10#5), (.shiftIR, 11#5), (.exit1IR, 12#5), (.pauseIR, 13#5),
        (.exit2IR, 14#5), (.updateIR, 15#5), (.unknownTap, 16#5)],
      s.bus.tap = p.1 → (hostRead s 0x10#32).extractLsb' 16 5 = p.2) ∧
    (hostRead s 0x10#32).extractLsb' 21 3 = s.bus.ones ∧
    (hostRead s 0x10#32).extractLsb' 24 8 = 0#8

/-- Each of the 256 opcode bytes decodes to one instruction, which is the command of the opcode map with
that opcode or a reserved row, and encodes back to that byte. (From R100, R111.) -/
def Obligations.EveryHostByteDecodes : Prop :=
  ∀ b : Byte, ∃ i, decode .hostcmd [b] = .ok (i, []) ∧ encode i = [b] ∧
    (hostOpcode i = some b ∨ (hostOpcode i = none ∧ isReserved i = true))

/-- For every well-formed instruction, at every value of every operand, and any bytes after its word, decode
in its format reads exactly it and leaves exactly those bytes (the byte layout of a word is the model's
choice, assumption 3). (From 30_encoding.md rules R90 to R111, notes/assumptions/3.md.) -/
def Obligations.DecodeEncodeAgree : Prop :=
  ∀ (i : Instr) (rest : List Byte), i.wellFormed = true →
    decode (formatOf i) (encode i ++ rest) = .ok (i, rest)

/-- If bytes decode in a format to i with bytes left over, then i is well formed, its format is that format,
and the bytes are the encoding of i followed by those left over: no two words of a format mean the same
instruction and no reserved encoding falls through to a neighbour. The opcode byte of a host command is
the whole word here (bits [31:8] of the written word are cut off before). That a word of a template with
a hole no operand check lets through is not well formed and is refused is the model's inference from
R65, R69, R110 and R113 (assumption 9); that a word is padded to whole bytes, least significant first,
is its choice (assumption 3). (From 30_encoding.md rules R90 to R111, R65, R69, R110, R113,
notes/assumptions/3.md, notes/assumptions/9.md.) -/
def Obligations.DecodedBytesAreTheEncoding : Prop :=
  ∀ (f : Format) (bytes left : List Byte) (i : Instr), decode f bytes = .ok (i, left) →
    i.wellFormed = true ∧ formatOf i = f ∧ bytes = encode i ++ left

/-- PROGRAM_WORD is 0x07 and 0x17 is reserved; SendCommand(5, 0x04) has TDI 0,0,0,0,0,0,1,0,0,0,0;
XferData(8, 0xFC) has TDI high on pulses 5 to 10; MTAP_COMMAND is 0x07; bulk erase is 0xFC; the resume
word is 0x0004C000; lw t1, 0(t0) is 0x8D090000; F7 with op 5 is 0x34084005; response 0xB is
UnknownOpcode. A frame is read as its TDI row and the bytes of a word least significant first: the
model's choice (assumption 3). (From 30_encoding.md rules R92 to R111, R113, notes/assumptions/3.md.) -/
def Obligations.HandWrittenWordsDecode : Prop :=
  decode .hostcmd [0x07#8] = .ok (.programWord, []) ∧
  decode .hostcmd [0x17#8] = .ok (.reserved16 1#1, []) ∧
  decode .irscan [0x40#8, 0x00#8] = .ok (.sendCommand5 4#5, []) ∧
  decode .drscan8 [0xE0#8, 0x07#8] = .ok (.xferData8 0xFC#8, []) ∧
  decode .tapir [0x07#8] = .ok (.mtapCommand, []) ∧
  decode .mchp8 [0xFC#8] = .ok (.mchpErase, []) ∧
  decode .ctrl32 [0x00#8, 0xC0#8, 0x04#8, 0x00#8] = .ok (.ctrlResume, []) ∧
  decode .mips32i [0x00#8, 0x00#8, 0x09#8, 0x8D#8] = .ok (.lw 9#5 0#16 8#5, []) ∧
  decode (.injFo 7) [0x05#8, 0x40#8, 0x08#8, 0x34#8] = .ok (.foF7 5#4, []) ∧
  decode .hostrsp [0x0B#8] = .ok (.rspUnknownOpcode, [])

/-- In every state, a fatal session included, NOP answers a next state: the state with S.inj_count 0,
response OK with results 0 and 0, and the engine idle; nothing on the bus. (States R213.) -/
def Obligations.NopCompletes : Prop :=
  ∀ s : State, exec .nop s = .next
    { s with injCount := 0#32, rsp := 0#32, res0 := 0#32, res1 := 0#32, busy := false,
             seq := { op := none, step := 0 } }

/-- In every state, whether or not S.fatal is set, CLEAR_ERROR answers a next state: the state with S.fatal
0 and every field of S.err 0, S.inj_count 0, response OK with results 0 and 0, and the engine idle;
S.dev and the bus are as they were. (States R214.) -/
def Obligations.ClearErrorCompletes : Prop :=
  ∀ s : State, exec .clearError s = .next
    { s with fatal := false, err := { code := 0#4, op := 0#8, addr := 0#32, obs := 0#32, exp := 0#32 },
             injCount := 0#32, rsp := 0#32, res0 := 0#32, res1 := 0#32, busy := false,
             seq := { op := none, step := 0 } }

/-- In every state with no latched error, ASSERT_TARGET_RESET answers the state with one event more, the
reset line driven low for ARG0 bit 0 equal to 1 and high for 0 (also when the level does not change),
S.pin.rst that bit, S.dev Unknown, S.ident.valid 0, S.inj_count 0, response OK with 0 and 0; bits 31 to
1 of ARG0 do not matter and nothing else changes. (States R177, R178, R219.) -/
def Obligations.AssertTargetResetCompletes : Prop :=
  ∀ s : State, s.fatal = false → exec .assertTargetReset s = .next
    { s with
      bus := { s.bus with
        log := .drive .rst (!s.arg0.getLsbD 0) :: s.bus.log
        pins := { s.bus.pins with rst := s.arg0.getLsbD 0 } }
      dev := .unknown
      ident := { s.ident with valid := false }
      injCount := 0#32
      rsp := 0#32
      res0 := 0#32
      res1 := 0#32
      busy := false
      seq := { op := none, step := 0 } }

/-- In DebugMode with no latched error, EXIT_PGM_MODE answers a next state with response OK and results 0
and 0: the bus did SetMode(6, 0x1F), SendCommand(5, 0x04), reset asserted, Sleep(10), reset released and
nothing else; S.dev is Reset, the identity dropped, S.pin.rst 0, the shadow in Run-Test/Idle with MTAP
selected; S.res, the operands and the latch are as they were. (From R176, R217.) -/
def Obligations.ExitPgmModeCompletes : Prop :=
  ∀ s : State, Accepted .exitPgmMode s →
    ∃ t, exec .exitPgmMode s = .next t ∧ OkEnd s t 0#32 0#32 0#32 ∧ t.res = s.res ∧
      t.dev = .reset ∧ t.ident = { s.ident with valid := false } ∧
      DidScans s.bus t.bus
        [.frame (modeFrame 6 0x1F#32), .frame (irFrame 5 0x04#32), .reset true, .sleep 10, .reset false]
        false ∧
      ShadowAt t.bus (ir5 0x04#32) .mtap

/-- With no latched error, in every S.dev and from every shadow state, if the first accepted status byte of
at most 100 (bit 3 set, bit 2 clear) is that of poll j, WAIT_READY answers a next state with response
OK, RES0 that byte and RES1 j+1: the bus did reset asserted, SetMode(6, 0x1F), SendCommand(5, 0x04),
SendCommand(5, 0x07) and j+1 status scans with a Sleep(10) between two; S.dev is MtapSelected, the
identity dropped, the shadow in Run-Test/Idle on MTAP and its command register; S.res, operands and
latch as they were. (From R172, R173, R215.) -/
def Obligations.WaitReadyCompletes : Prop :=
  ∀ (s : State) (j : Nat), Accepted .waitReady s → readyStatusPoll s.bus 28 = some j →
    ∃ t, exec .waitReady s = .next t ∧
      OkEnd s t (statusByte s.bus 28 j) (BitVec.ofNat 32 (j + 1)) 0#32 ∧ t.res = s.res ∧
      t.dev = .mtapSelected ∧ t.ident = { s.ident with valid := false } ∧
      DidScans s.bus t.bus
        ([.reset true, .frame (modeFrame 6 0x1F#32), .frame (irFrame 5 0x04#32),
          .frame (irFrame 5 0x07#32)] ++ statusActions (j + 1)) true ∧
      ShadowAt t.bus (ir5 0x07#32) .mtap

/-- In DebugMode with a valid identity and no latched error, if the first accepted status byte of at most
100 is that of poll j, ERASE_ALL answers a next state with response OK, RES0 that byte and RES1 j+1: the
bus did SendCommand(5, 0x04), SendCommand(5, 0x07), XferData(8, 0xFC), j+1 status scans with a Sleep(10)
between two, and SendCommand(5, 0x05); the reset line, S.dev, the identity, S.res, operands and latch
are as they were; from Run-Test/Idle the shadow ends there with ETAP selected. (From R172, R174, R218.) -/
def Obligations.EraseAllCompletes : Prop :=
  ∀ (s : State) (j : Nat), Accepted .eraseAll s → readyStatusPoll s.bus 35 = some j →
    ∃ t, exec .eraseAll s = .next t ∧
      OkEnd s t (statusByte s.bus 35 j) (BitVec.ofNat 32 (j + 1)) 0#32 ∧ t.res = s.res ∧
      DeviceKept s t ∧
      DidScans s.bus t.bus
        ([.frame (irFrame 5 0x04#32), .frame (irFrame 5 0x07#32), .frame (drFrame 8 0xFC#32)] ++
          statusActions (j + 1) ++ [.frame (irFrame 5 0x05#32)]) s.bus.pins.rst ∧
      (AtIdle s.bus → ShadowAt t.bus (ir5 0x05#32) .etap)

/-- If none of the 100 status bytes has bit 3 set and bit 2 clear, WAIT_READY and ERASE_ALL (each when
accepted) answer a next state with BusTimeout latched and reported: address 0, observed the last status
byte, expected 0x08; 100 status scans and 99 Sleeps were done and nothing after them; S.dev is Unknown
and the identity dropped; S.inj_count is 0, S.res and the operands as they were; the reset line stays
asserted after WAIT_READY and as it was after ERASE_ALL, and the TAP is left on MTAP. (From R172, R173,
R174, R241, R250, R251.) -/
def Obligations.StatusPollTimeoutRaises : Prop :=
  (∀ s : State, Accepted .waitReady s → readyStatusPoll s.bus 28 = none →
    ∃ t, exec .waitReady s = .next t ∧
      ErrorEnd s t 1#4 0x01#8 0#32 (statusByte s.bus 28 99) 0x08#32 0#32 ∧ t.res = s.res ∧
      DeviceDropped s t ∧
      DidScans s.bus t.bus
        ([.reset true, .frame (modeFrame 6 0x1F#32), .frame (irFrame 5 0x04#32),
          .frame (irFrame 5 0x07#32)] ++ statusActions 100) true ∧
      ShadowAt t.bus (ir5 0x07#32) .mtap) ∧
  (∀ s : State, Accepted .eraseAll s → readyStatusPoll s.bus 35 = none →
    ∃ t, exec .eraseAll s = .next t ∧
      ErrorEnd s t 1#4 0x04#8 0#32 (statusByte s.bus 35 99) 0x08#32 0#32 ∧ t.res = s.res ∧
      DeviceDropped s t ∧
      DidScans s.bus t.bus
        ([.frame (irFrame 5 0x04#32), .frame (irFrame 5 0x07#32), .frame (drFrame 8 0xFC#32)] ++
          statusActions 100) s.bus.pins.rst ∧
      (AtIdle s.bus → ShadowAt t.bus (ir5 0x07#32) .mtap))

/-- In MtapSelected with no latched error, if both preamble words are serviced, the second on Control poll
j, ENTER_PGM_MODE answers a next state with response OK, results 0 and 0 and S.inj_count 2: the bus did
SendCommand(5, 0x05), SendCommand(5, 0x0C), reset released, Sleep(10) and the two injections, each with
the Control polls its answers ask for; S.dev is DebugMode, the identity registers as they were, S.res
the last Control word of the second injection with pracc 1, S.pin.rst 0; from Run-Test/Idle the shadow
ends there with ETAP selected; operands and latch as they were. (From R107, R160, R161, R175, R216.) -/
def Obligations.EnterPgmModeCompletes : Prop :=
  ∀ (s : State) (e j : Nat), Accepted .enterPgmMode s → injectionsEnd s.bus 1 22 = some e →
    readyControlPoll s.bus e = some j →
    ∃ t, exec .enterPgmMode s = .next t ∧ OkEnd s t 0#32 0#32 2#32 ∧
      t.dev = .debugMode ∧ t.ident = s.ident ∧
      t.res = { value := controlWord s.bus e j, pracc := true } ∧
      DidScans s.bus t.bus
        ([.frame (irFrame 5 0x05#32), .frame (irFrame 5 0x0C#32), .reset false, .sleep 10] ++
          injectionsActions s.bus 22 preWords) false ∧
      (AtIdle s.bus → ShadowAt t.bus (ir5 0x0A#32) .etap)

/-- If k preamble words are serviced and the next one, w, never sees the ready bit in 100 Control polls, an
accepted ENTER_PGM_MODE answers a next state with BusTimeout latched and reported: address w, observed
the last Control word, expected 0x0004C000; S.inj_count is k, S.dev Unknown, the identity dropped, S.res
the last Control word with pracc 0; the reset line is released and the words after w are not injected.
(From R160, R162, R175, R241, R250.) -/
def Obligations.EnterPgmModeTimeoutRaises : Prop :=
  ∀ (s : State) (k e : Nat) (w : Word), Accepted .enterPgmMode s → preWords[k]? = some w →
    injectionsEnd s.bus k 22 = some e → readyControlPoll s.bus e = none →
    ∃ t, exec .enterPgmMode s = .next t ∧
      ErrorEnd s t 1#4 0x02#8 w (controlWord s.bus e 99) 0x0004C000#32 (BitVec.ofNat 32 k) ∧
      DeviceDropped s t ∧ t.res = { value := controlWord s.bus e 99, pracc := false } ∧
      DidScans s.bus t.bus
        ([.frame (irFrame 5 0x05#32), .frame (irFrame 5 0x0C#32), .reset false, .sleep 10] ++
          injectionsActions s.bus 22 (preWords.take k) ++ injectionTimeout) false ∧
      (AtIdle s.bus → ShadowAt t.bus (ir5 0x0A#32) .etap)

/-- When accepted (DebugMode, ramAddr a multiple of 4 up to 0x7FFC, no latched error) and its five words are
all serviced, the fifth on Control poll j, DOWNLOAD_DATA answers a next state with response OK, results
0 and 0, S.inj_count 5: the bus did exactly the injections of 0x3C10A000, 0x3C080000|hi16(data),
0x35080000|lo16(data), 0xAE080000|ramAddr, 0xAC880030 in order; S.res is the last Control word of the
fifth injection with pracc 1; S.dev, the identity, the reset line, operands and latch are as they were.
(From R108, R160, R161, R179, R224.) -/
def Obligations.DownloadDataCompletes : Prop :=
  ∀ (s : State) (e j : Nat), Accepted .downloadData s → injectionsEnd s.bus 4 0 = some e →
    readyControlPoll s.bus e = some j →
    ∃ t, exec .downloadData s = .next t ∧ OkEnd s t 0#32 0#32 5#32 ∧ DeviceKept s t ∧
      t.res = { value := controlWord s.bus e j, pracc := true } ∧
      DidScans s.bus t.bus (injectionsActions s.bus 0 (dlWords s.arg0 s.arg1)) s.bus.pins.rst ∧
      (AtIdle s.bus → ShadowAt t.bus (ir5 0x0A#32) s.bus.tapSel)

/-- When accepted (DebugMode, an aligned address in or out of flash, no identity needed, no latched error),
its five words all serviced and the handshake bit of the second fast-data scan set, READ_WORD answers a
next state with response OK, RES0 the word of the second scan, RES1 0, S.inj_count 5: the bus did the
five injections of the template for addr|0xA0000000, SendCommand(5, 0x0E) and exactly two fast-data
scans of 0; S.res is that second word with pracc 1; S.dev, the identity, the reset line, operands and
latch are as they were. (From R74, R110, R182, R183, R222.) -/
def Obligations.ReadWordCompletes : Prop :=
  ∀ (s : State) (e : Nat), Accepted .readWord s → injectionsEnd s.bus 5 0 = some e →
    drainPracc s.bus e = true →
    ∃ t, exec .readWord s = .next t ∧ OkEnd s t (drainWord s.bus e) 0#32 5#32 ∧ DeviceKept s t ∧
      t.res = { value := drainWord s.bus e, pracc := true } ∧
      DidScans s.bus t.bus (injectionsActions s.bus 0 (rdWords s.arg0) ++ drainActions)
        s.bus.pins.rst ∧
      (AtIdle s.bus → ShadowAt t.bus (ir5 0x0E#32) s.bus.tapSel)

/-- When accepted, its words serviced, the second handshake bit set and the word read equal to ARG1,
VERIFY_WORD answers a next state with response OK, RES0 the word read and RES1 the expected word,
S.inj_count 5, after the same bus activity as READ_WORD; S.dev, the identity, the reset line, operands
and latch are as they were. (From R183, R223.) -/
def Obligations.VerifyWordCompletes : Prop :=
  ∀ (s : State) (e : Nat), Accepted .verifyWord s → injectionsEnd s.bus 5 0 = some e →
    drainPracc s.bus e = true → drainWord s.bus e = s.arg1 →
    ∃ t, exec .verifyWord s = .next t ∧ OkEnd s t (drainWord s.bus e) s.arg1 5#32 ∧ DeviceKept s t ∧
      t.res = { value := drainWord s.bus e, pracc := true } ∧
      DidScans s.bus t.bus (injectionsActions s.bus 0 (rdWords s.arg0) ++ drainActions)
        s.bus.pins.rst ∧
      (AtIdle s.bus → ShadowAt t.bus (ir5 0x0E#32) s.bus.tapSel)

/-- Under the same conditions with the word read different from ARG1, VERIFY_WORD answers a next state with
VerifyMismatch latched and reported: the address, the word read and the expected word; S.dev and the
identity stay as they were, S.inj_count is 5, the bus activity is that of READ_WORD and nothing more.
(From R223, R245, R250.) -/
def Obligations.VerifyWordMismatchRaises : Prop :=
  ∀ (s : State) (e : Nat), Accepted .verifyWord s → injectionsEnd s.bus 5 0 = some e →
    drainPracc s.bus e = true → drainWord s.bus e ≠ s.arg1 →
    ∃ t, exec .verifyWord s = .next t ∧
      ErrorEnd s t 5#4 0x09#8 s.arg0 (drainWord s.bus e) s.arg1 5#32 ∧ DeviceKept s t ∧
      t.res = { value := drainWord s.bus e, pracc := true } ∧
      DidScans s.bus t.bus (injectionsActions s.bus 0 (rdWords s.arg0) ++ drainActions)
        s.bus.pins.rst ∧
      (AtIdle s.bus → ShadowAt t.bus (ir5 0x0E#32) s.bus.tapSel)

/-- When accepted, its words serviced and the second handshake bit set: in a machine with any legal catalog,
if record i is the first whose id is the word read masked with 0x0FFFFFFF, and that is not 0, IDENTIFY
answers a next state with response OK, RES0 that id, RES1 i, S.inj_count 5, S.dev as it was and the
identity registers those of the record; the bus did the read of 0xBF80F220; operands, latch and catalog
are as they were. With the catalog of State.reset, which is R11's, and the masked word 0x04A01053: RES0
that word, RES1 0, name 210F016B, 32 words a row, 3 and 16 KB. (From R11, R40, R83, R210, R220.) -/
def Obligations.IdentifyCompletes : Prop :=
  ∀ (s : State) (e : Nat), Accepted .identify s → injectionsEnd s.bus 5 0 = some e →
    drainPracc s.bus e = true →
    (∀ (i : Nat) (r : DeviceRecord), LegalCatalog s.catalog → s.catalog[i]? = some r →
      r.id = drainWord s.bus e &&& 0x0FFFFFFF#32 → r.id ≠ 0#32 →
      (∀ j < i, ∀ q, s.catalog[j]? = some q → q.id ≠ r.id) →
      ∃ t, exec .identify s = .next t ∧ OkEnd s t r.id (BitVec.ofNat 32 i) 5#32 ∧ t.dev = s.dev ∧
        t.ident =
          { valid := true, id := r.id, name := r.name, rowWords := r.rowWords, bfmKB := r.bfmKB,
            pfmKB := r.pfmKB } ∧
        t.res = { value := drainWord s.bus e, pracc := true } ∧
        DidScans s.bus t.bus (injectionsActions s.bus 0 (rdWords 0xBF80F220#32) ++ drainActions)
          s.bus.pins.rst ∧
        (AtIdle s.bus → ShadowAt t.bus (ir5 0x0E#32) s.bus.tapSel)) ∧
    (s.catalog = State.reset.catalog → drainWord s.bus e &&& 0x0FFFFFFF#32 = 0x04A01053#32 →
      ∃ t, exec .identify s = .next t ∧ OkEnd s t 0x04A01053#32 0#32 5#32 ∧
        t.ident =
          { valid := true, id := 0x04A01053#32,
            name := #v[0x32#8, 0x31#8, 0x30#8, 0x46#8, 0x30#8, 0x31#8, 0x36#8, 0x42#8, 0#8, 0#8, 0#8, 0#8],
            rowWords := 32#16, bfmKB := 3#16, pfmKB := 16#16 })

/-- Under the same conditions, in a machine with any legal catalog, if the masked word is 0 or no record has
it as its id, IDENTIFY answers a next state with DeviceUnidentified latched and reported: address
0xBF80F220, observed the word as read, unmasked, expected 0; S.ident.valid is 0 and the other identity
registers keep their values, S.dev is as it was, S.inj_count 5. With the catalog of State.reset that is
every masked word but 0x04A01053. (From R11, R40, R83, R210, R244, R250.) -/
def Obligations.IdentifyUnidentifiedRaises : Prop :=
  ∀ (s : State) (e : Nat), Accepted .identify s → injectionsEnd s.bus 5 0 = some e →
    drainPracc s.bus e = true →
    (LegalCatalog s.catalog ∧
        (drainWord s.bus e &&& 0x0FFFFFFF#32 = 0#32 ∨
          ∀ r ∈ s.catalog, r.id ≠ drainWord s.bus e &&& 0x0FFFFFFF#32) ∨
      s.catalog = State.reset.catalog ∧ drainWord s.bus e &&& 0x0FFFFFFF#32 ≠ 0x04A01053#32) →
    ∃ t, exec .identify s = .next t ∧
      ErrorEnd s t 4#4 0x06#8 0xBF80F220#32 (drainWord s.bus e) 0#32 5#32 ∧ t.dev = s.dev ∧
      t.ident = { s.ident with valid := false } ∧
      t.res = { value := drainWord s.bus e, pracc := true } ∧
      DidScans s.bus t.bus (injectionsActions s.bus 0 (rdWords 0xBF80F220#32) ++ drainActions)
        s.bus.pins.rst ∧
      (AtIdle s.bus → ShadowAt t.bus (ir5 0x0E#32) s.bus.tapSel)

/-- When accepted (DebugMode, valid identity, an aligned address whose word lies in one flash window, no
latched error) and the first attempt reads back a status word st with bits 15, 13 and 12 clear,
PROGRAM_WORD answers a next state with response OK, RES0 st, RES1 1, S.inj_count 35: the bus did the
five words of DownloadData(0, v), the thirty of FlashOperation(1, a, 0) and the drain, once; S.res is st
with pracc 1; S.dev, the identity, the reset line, operands and latch are as they were. (From R109,
R181, R221.) -/
def Obligations.ProgramWordFirstAttempt : Prop :=
  ∀ (s : State) (st : Word) (e : Nat), Accepted .programWord s →
    programAttempt s.bus 0 = some (st, e) → st &&& 0xB000#32 = 0#32 →
    ∃ t, exec .programWord s = .next t ∧ OkEnd s t st 1#32 35#32 ∧ DeviceKept s t ∧
      t.res = { value := st, pracc := true } ∧
      DidScans s.bus t.bus (attemptActions s.bus 0 s.arg0 s.arg1) s.bus.pins.rst ∧
      (AtIdle s.bus → ShadowAt t.bus (ir5 0x0E#32) s.bus.tapSel)

/-- When accepted, if the first status word has bit 15 clear and bit 13 or 12 set and the second attempt,
starting where the first ended, reads back a clean one, PROGRAM_WORD answers a next state with response
OK, RES0 the second status word, RES1 2, S.inj_count 70, the bus having done both attempts whole; S.dev,
the identity, the reset line, operands and latch are as they were. (From R181, R221.) -/
def Obligations.ProgramWordSecondAttempt : Prop :=
  ∀ (s : State) (st₁ st₂ : Word) (e₁ e₂ : Nat), Accepted .programWord s →
    programAttempt s.bus 0 = some (st₁, e₁) → st₁ &&& 0x8000#32 = 0#32 → st₁ &&& 0x3000#32 ≠ 0#32 →
    programAttempt s.bus e₁ = some (st₂, e₂) → st₂ &&& 0xB000#32 = 0#32 →
    ∃ t, exec .programWord s = .next t ∧ OkEnd s t st₂ 2#32 70#32 ∧ DeviceKept s t ∧
      t.res = { value := st₂, pracc := true } ∧
      DidScans s.bus t.bus
        (attemptActions s.bus 0 s.arg0 s.arg1 ++ attemptActions s.bus e₁ s.arg0 s.arg1)
        s.bus.pins.rst ∧
      (AtIdle s.bus → ShadowAt t.bus (ir5 0x0E#32) s.bus.tapSel)

/-- When accepted, if both status words have bit 15 clear and bit 13 or 12 set, PROGRAM_WORD answers a next
state with NvmControllerError latched and reported: the flash address, the last status word, expected 0;
there is no third attempt, S.dev and the identity stay as they were, S.inj_count is 70. (From R221,
R243, R250.) -/
def Obligations.ProgramWordFailsTwice : Prop :=
  ∀ (s : State) (st₁ st₂ : Word) (e₁ e₂ : Nat), Accepted .programWord s →
    programAttempt s.bus 0 = some (st₁, e₁) → st₁ &&& 0x8000#32 = 0#32 → st₁ &&& 0x3000#32 ≠ 0#32 →
    programAttempt s.bus e₁ = some (st₂, e₂) → st₂ &&& 0x8000#32 = 0#32 → st₂ &&& 0x3000#32 ≠ 0#32 →
    ∃ t, exec .programWord s = .next t ∧ ErrorEnd s t 3#4 0x07#8 s.arg0 st₂ 0#32 70#32 ∧
      DeviceKept s t ∧ t.res = { value := st₂, pracc := true } ∧
      DidScans s.bus t.bus
        (attemptActions s.bus 0 s.arg0 s.arg1 ++ attemptActions s.bus e₁ s.arg0 s.arg1)
        s.bus.pins.rst ∧
      (AtIdle s.bus → ShadowAt t.bus (ir5 0x0E#32) s.bus.tapSel)

/-- When accepted, if the first status word has bit 15 set (whatever bits 13 and 12 are), or the first
failed and the second has it set, PROGRAM_WORD answers a next state with BusTimeout latched and
reported: the flash address, that status word, expected 0; S.dev is Unknown and the identity dropped;
S.inj_count is 35 for each attempt made and no further attempt is made. (From R181, R221, R241, R248,
R250.) -/
def Obligations.ProgramWordUnconfirmedRaises : Prop :=
  (∀ (s : State) (st : Word) (e : Nat), Accepted .programWord s →
    programAttempt s.bus 0 = some (st, e) → st &&& 0x8000#32 ≠ 0#32 →
    ∃ t, exec .programWord s = .next t ∧ ErrorEnd s t 1#4 0x07#8 s.arg0 st 0#32 35#32 ∧
      DeviceDropped s t ∧ t.res = { value := st, pracc := true } ∧
      DidScans s.bus t.bus (attemptActions s.bus 0 s.arg0 s.arg1) s.bus.pins.rst ∧
      (AtIdle s.bus → ShadowAt t.bus (ir5 0x0E#32) s.bus.tapSel)) ∧
  (∀ (s : State) (st₁ st₂ : Word) (e₁ e₂ : Nat), Accepted .programWord s →
    programAttempt s.bus 0 = some (st₁, e₁) → st₁ &&& 0x8000#32 = 0#32 → st₁ &&& 0x3000#32 ≠ 0#32 →
    programAttempt s.bus e₁ = some (st₂, e₂) → st₂ &&& 0x8000#32 ≠ 0#32 →
    ∃ t, exec .programWord s = .next t ∧ ErrorEnd s t 1#4 0x07#8 s.arg0 st₂ 0#32 70#32 ∧
      DeviceDropped s t ∧ t.res = { value := st₂, pracc := true } ∧
      DidScans s.bus t.bus
        (attemptActions s.bus 0 s.arg0 s.arg1 ++ attemptActions s.bus e₁ s.arg0 s.arg1)
        s.bus.pins.rst ∧
      (AtIdle s.bus → ShadowAt t.bus (ir5 0x0E#32) s.bus.tapSel))

/-- When accepted (DebugMode, valid identity, one of the four operation codes with its address and ramAddr
checks, no latched error), its thirty words all serviced, the second handshake bit set and bit 15 of the
status word clear (bits 13 and 12 as they may be), FLASH_OPERATION answers a next state with response
OK, RES0 the status word, RES1 0, S.inj_count 30: the bus did the template front to back once and the
drain; S.res is the status word with pracc 1; S.dev, the identity, the reset line, operands and latch
are as they were. (From R109, R180, R181, R225, R231.) -/
def Obligations.FlashOperationCompletes : Prop :=
  ∀ (s : State) (e : Nat), Accepted .flashOperation s → injectionsEnd s.bus 30 0 = some e →
    drainPracc s.bus e = true → drainWord s.bus e &&& 0x8000#32 = 0#32 →
    ∃ t, exec .flashOperation s = .next t ∧ OkEnd s t (drainWord s.bus e) 0#32 30#32 ∧
      DeviceKept s t ∧ t.res = { value := drainWord s.bus e, pracc := true } ∧
      DidScans s.bus t.bus
        (injectionsActions s.bus 0 (foWords s.arg0 s.arg1 s.arg2) ++ drainActions) s.bus.pins.rst ∧
      (AtIdle s.bus → ShadowAt t.bus (ir5 0x0E#32) s.bus.tapSel)

/-- Under the same conditions with bit 15 set, FLASH_OPERATION answers a next state with BusTimeout latched
and reported: the flash address of ARG1, the status word, expected 0; S.dev is Unknown, the identity
dropped, S.inj_count 30. (From R181, R225, R241, R250.) -/
def Obligations.FlashOperationUnconfirmedRaises : Prop :=
  ∀ (s : State) (e : Nat), Accepted .flashOperation s → injectionsEnd s.bus 30 0 = some e →
    drainPracc s.bus e = true → drainWord s.bus e &&& 0x8000#32 ≠ 0#32 →
    ∃ t, exec .flashOperation s = .next t ∧
      ErrorEnd s t 1#4 0x0B#8 s.arg1 (drainWord s.bus e) 0#32 30#32 ∧ DeviceDropped s t ∧
      t.res = { value := drainWord s.bus e, pracc := true } ∧
      DidScans s.bus t.bus
        (injectionsActions s.bus 0 (foWords s.arg0 s.arg1 s.arg2) ++ drainActions) s.bus.pins.rst ∧
      (AtIdle s.bus → ShadowAt t.bus (ir5 0x0E#32) s.bus.tapSel)

/-- For READ_WORD, VERIFY_WORD, IDENTIFY, FLASH_OPERATION and the first attempt of PROGRAM_WORD, when
accepted and every word of the template serviced: if the handshake bit of the second fast-data scan is 0
(the first scan's bit is not tested), the command answers a next state with ProtocolFraming latched and
reported: address 0, observed that scan's word, expected 1; S.dev is Unknown and the identity dropped;
S.inj_count is the template's length; nothing follows the drain. In the second attempt of PROGRAM_WORD,
made after a first whose status word has bit 15 clear and bit 13 or 12 set, the same with S.inj_count
70: the bus did the first attempt and the second up to its drain, and there is no third. (From R182,
R221, R242, R250.) -/
def Obligations.DrainWithoutHandshakeRaises : Prop :=
  (∀ (i : Instr) (s : State) (c : Byte) (ws : List Word) (e : Nat), Accepted i s →
    injects i s = some (c, ws) → i ≠ .downloadData → injectionsEnd s.bus ws.length 0 = some e →
    drainPracc s.bus e = false →
    ∃ t, exec i s = .next t ∧
      ErrorEnd s t 2#4 c 0#32 (drainWord s.bus e) 1#32 (BitVec.ofNat 32 ws.length) ∧
      DeviceDropped s t ∧ t.res = { value := drainWord s.bus e, pracc := false } ∧
      DidScans s.bus t.bus (injectionsActions s.bus 0 ws ++ drainActions) s.bus.pins.rst ∧
      (AtIdle s.bus → ShadowAt t.bus (ir5 0x0E#32) s.bus.tapSel)) ∧
  (∀ (s : State) (st : Word) (e₁ e : Nat), Accepted .programWord s →
    programAttempt s.bus 0 = some (st, e₁) → st &&& 0x8000#32 = 0#32 → st &&& 0x3000#32 ≠ 0#32 →
    injectionsEnd s.bus 35 e₁ = some e → drainPracc s.bus e = false →
    ∃ t, exec .programWord s = .next t ∧
      ErrorEnd s t 2#4 0x07#8 0#32 (drainWord s.bus e) 1#32 70#32 ∧
      DeviceDropped s t ∧ t.res = { value := drainWord s.bus e, pracc := false } ∧
      DidScans s.bus t.bus
        (attemptActions s.bus 0 s.arg0 s.arg1 ++ attemptActions s.bus e₁ s.arg0 s.arg1)
        s.bus.pins.rst ∧
      (AtIdle s.bus → ShadowAt t.bus (ir5 0x0E#32) s.bus.tapSel))

/-- For IDENTIFY, PROGRAM_WORD, READ_WORD, VERIFY_WORD, DOWNLOAD_DATA and FLASH_OPERATION, when accepted: if
k words of the template are serviced and the next, w, never shows the ready bit in 100 Control polls,
the command answers a next state with BusTimeout latched and reported: address w, observed the last
Control word, expected 0x0004C000; S.inj_count is k; S.dev is Unknown and the identity dropped; the Data
register is not selected for w and no later word is injected. In the second attempt of PROGRAM_WORD,
made after a first whose status word has bit 15 clear and bit 13 or 12 set, the same of its word k with
S.inj_count 35+k, after the whole first attempt; nothing is retried. (From R160, R162, R221, R241, R250,
R251.) -/
def Obligations.InjectionTimeoutRaises : Prop :=
  (∀ (i : Instr) (s : State) (c : Byte) (ws : List Word) (k e : Nat) (w : Word), Accepted i s →
    injects i s = some (c, ws) → ws[k]? = some w → injectionsEnd s.bus k 0 = some e →
    readyControlPoll s.bus e = none →
    ∃ t, exec i s = .next t ∧
      ErrorEnd s t 1#4 c w (controlWord s.bus e 99) 0x0004C000#32 (BitVec.ofNat 32 k) ∧
      DeviceDropped s t ∧ t.res = { value := controlWord s.bus e 99, pracc := false } ∧
      DidScans s.bus t.bus (injectionsActions s.bus 0 (ws.take k) ++ injectionTimeout)
        s.bus.pins.rst ∧
      (AtIdle s.bus → ShadowAt t.bus (ir5 0x0A#32) s.bus.tapSel)) ∧
  (∀ (s : State) (st : Word) (e₁ k e : Nat) (w : Word), Accepted .programWord s →
    programAttempt s.bus 0 = some (st, e₁) → st &&& 0x8000#32 = 0#32 → st &&& 0x3000#32 ≠ 0#32 →
    (dlWords 0#32 s.arg1 ++ foWords 0x1#32 s.arg0 0#32)[k]? = some w →
    injectionsEnd s.bus k e₁ = some e → readyControlPoll s.bus e = none →
    ∃ t, exec .programWord s = .next t ∧
      ErrorEnd s t 1#4 0x07#8 w (controlWord s.bus e 99) 0x0004C000#32 (BitVec.ofNat 32 (35 + k)) ∧
      DeviceDropped s t ∧ t.res = { value := controlWord s.bus e 99, pracc := false } ∧
      DidScans s.bus t.bus
        (attemptActions s.bus 0 s.arg0 s.arg1 ++
          (injectionsActions s.bus e₁ ((dlWords 0#32 s.arg1 ++ foWords 0x1#32 s.arg0 0#32).take k) ++
            injectionTimeout))
        s.bus.pins.rst ∧
      (AtIdle s.bus → ShadowAt t.bus (ir5 0x0A#32) s.bus.tapSel))

/-- With no latched error and ARG0 at most 32, in every S.dev, RAW_SET_MODE answers a next state with
response OK, RES0 the samples (bit i from pulse i), RES1 0, S.inj_count 0, S.dev Unknown and the
identity dropped; width 0 leaves the bus alone; else the bus did frame MODE, the pins are as its last
pulse left them, and the shadow is that of the TMS levels; S.res, operands and latch are as they were.
(From R92, R132, R226.) -/
def Obligations.RawSetModeCompletes : Prop :=
  ∀ s : State, Accepted .rawSetMode s →
    ∃ t, exec .rawSetMode s = .next t ∧ ModeSet s t s.arg0.toNat s.arg1

/-- With no latched error and ARG0 at most 32, RAW_SEND_COMMAND answers a next state with response OK,
results 0 and 0, S.inj_count 0, S.dev Unknown and the identity dropped; width 0 leaves the bus alone;
else the bus did frame IRSCAN, S.ir_sel is (bits, opcode[bits-1:0]), S.tap_sel is MTAP or ETAP for (5,
0x04) and (5, 0x05) and otherwise the shadow's; S.res, operands and latch are as they were. (From R93,
R133, R227.) -/
def Obligations.RawSendCommandCompletes : Prop :=
  ∀ s : State, Accepted .rawSendCommand s →
    ∃ t, exec .rawSendCommand s = .next t ∧ CommandSent s t s.arg0.toNat s.arg1

/-- With no latched error and ARG0 at most 32, RAW_XFER_DATA answers a next state with response OK, RES0 the
samples of the data pulses, zeros above the width, RES1 0, S.inj_count 0, S.dev Unknown and the identity
dropped; width 0 leaves the bus alone; else the bus did frame DRSCAN; S.res, operands and latch are as
they were. (From R94, R135, R228.) -/
def Obligations.RawXferDataCompletes : Prop :=
  ∀ s : State, Accepted .rawXferData s →
    ∃ t, exec .rawXferData s = .next t ∧ DataTransferred s t s.arg0.toNat s.arg1

/-- With no latched error RAW_XFER_FAST_DATA answers a next state with response OK, RES0 the word sampled on
pulses 4 to 35, RES1 the handshake bit sampled on pulse 3 (0 is reported, not raised), both also in
S.res; the bus did frame FDSCAN; S.inj_count is 0, S.dev Unknown, the identity dropped, operands and
latch as they were. (From R95, R138, R229.) -/
def Obligations.RawXferFastDataCompletes : Prop :=
  ∀ s : State, Accepted .rawXferFastData s →
    ∃ t, exec .rawXferFastData s = .next t ∧ FastDataTransferred s t s.arg0

/-- With no latched error RAW_XFER_INSTRUCTION answers a next state. If the ready bit (bit 18) first shows
on Control poll j of at most 100: response OK, RES0 that Control word, RES1 1, S.inj_count 1, the bus
having done j+1 Control polls with 0x0004C000, the Data scan of the word and the Control scan of
0x0000C000. If it never shows: response OK, RES0 the last Control word, RES1 0, S.inj_count 0, 100
Control polls and no Data scan. S.dev is Unknown, the identity dropped, S.res the Control word and the
bit, operands and latch as they were. (From R160, R161, R230.) -/
def Obligations.RawXferInstructionCompletes : Prop :=
  ∀ s : State, Accepted .rawXferInstruction s →
    ∃ t, exec .rawXferInstruction s = .next t ∧ InstructionTransferred s t s.arg0

/-- The bytes 0x0C, 0x0D, 0x0F and 0x15 to 0xFF decode to the reserved rows, and each of the eight reserved
rows, in every state (a fatal one included), answers the state with response UnknownOpcode (11), results
0 and 0 and the engine idle, nothing else changed. (States R111.) -/
def Obligations.ReservedOpcodesRefuse : Prop :=
  (∀ b : Byte, (b = 0x0C#8 ∨ b = 0x0D#8 ∨ b = 0x0F#8 ∨ 0x15#8 ≤ b) →
    ∃ i, decode .hostcmd [b] = .ok (i, []) ∧ isReserved i = true) ∧
  (∀ (i : Instr) (s : State), isReserved i = true → exec i s = .next (refusedState 11#32 s))

/-- The model runs a wire row by itself as the raw command that shifts it (assumption 2, a DESIGN CHOICE):
with no latched error SendCommand(5,opcode), MTAP_SW_MTAP, MTAP_SW_ETAP, MTAP_COMMAND, ETAP_DATA,
ETAP_CONTROL, ETAP_EJTAGBOOT and ETAP_FASTDATA each answer a next state in which SendCommand of five
bits of their opcode was done, response OK; with a latched error they are refused with SessionFatal.
(From R93, R102, R133, R227, notes/assumptions/2.md.) -/
def Obligations.SendCommandRowsComplete : Prop :=
  ∀ (i : Instr) (opcode : Word) (s : State), irRow i = some opcode →
    (s.fatal = false → ∃ t, exec i s = .next t ∧ CommandSent s t 5 opcode) ∧
    (s.fatal = true → exec i s = .next (refusedState 10#32 s))

/-- The model runs a wire row by itself as the raw command that shifts it (assumption 2, a DESIGN CHOICE):
with no latched error XferData(8,value), XferData(32,value), MCHP_STATUS, MCHP_ERASE, CTRL_RESUME and
CTRL_PROCEED each answer a next state in which XferData of their width and value was done, response OK
with the samples in RES0; with a latched error they are refused with SessionFatal. (From R94, R103,
R104, R135, R228, notes/assumptions/2.md.) -/
def Obligations.XferDataRowsComplete : Prop :=
  ∀ (i : Instr) (bits : Nat) (value : Word) (s : State), drRow i = some (bits, value) →
    (s.fatal = false → ∃ t, exec i s = .next t ∧ DataTransferred s t bits value) ∧
    (s.fatal = true → exec i s = .next (refusedState 10#32 s))

/-- The model runs a wire row by itself as the raw command that shifts it (assumption 2, a DESIGN CHOICE):
with no latched error the TAP reset row answers a next state in which SetMode(6, 0x1F) was done, with
the shadow in Run-Test/Idle and nothing selected, and XferFastData(value) one in which the fast-data
scan of value was done; with a latched error they are refused with SessionFatal. (From R92, R95, R132,
R137, R138, notes/assumptions/2.md.) -/
def Obligations.ModeAndFastDataRowsComplete : Prop :=
  ∀ s : State,
    (s.fatal = false →
      ∃ t, exec .setMode6TapReset s = .next t ∧ ModeSet s t 6 0x1F#32 ∧
        ShadowAt t.bus none .unknownSel) ∧
    (s.fatal = true → exec .setMode6TapReset s = .next (refusedState 10#32 s)) ∧
    ∀ value : Word,
      (s.fatal = false → ∃ t, exec (.xferFastData value) s = .next t ∧ FastDataTransferred s t value) ∧
      (s.fatal = true → exec (.xferFastData value) s = .next (refusedState 10#32 s))

/-- The model runs an injected word by itself as RAW_XFER_INSTRUCTION of it (assumption 2, a DESIGN CHOICE):
with no latched error lui, ori, andi, sw, lw, bne and nop with any fields, PRE.P0 and P1, DL.D0 to D4,
FO.F0 to F29 and RD.A0 to A4 with any hole each answer a next state in which XferInstruction of the word
(the constant of its row with the fields or the hole in place) was done, response OK; with a latched
error they are refused with SessionFatal. (From R105, R107, R108, R109, R110, R160, R230,
notes/assumptions/2.md.) -/
def Obligations.InjectedRowsComplete : Prop :=
  ∀ (i : Instr) (word : Word) (s : State), injectedRow i = some word →
    (s.fatal = false → ∃ t, exec i s = .next t ∧ InstructionTransferred s t word) ∧
    (s.fatal = true → exec i s = .next (refusedState 10#32 s))

/-- The model runs a response row by itself as the end of a command with that response (assumption 6, a
DESIGN CHOICE): RSP_OK keeps the result registers, an error row puts the latched observed and expected
values there, a refusal row zeros; H_RSP gets the code, the engine is idle, nothing else changes. (From
R98, R99, R101, notes/assumptions/6.md.) -/
def Obligations.ResponseRowsComplete : Prop :=
  ∀ (i : Instr) (s : State) (code r0 r1 : Word), responseRow s i = some (code, r0, r1) →
    exec i s = .next
      { s with rsp := code, res0 := r0, res1 := r1, busy := false, seq := { op := none, step := 0 } }

/-- For every command of the opcode map but NOP and CLEAR_ERROR and every state with S.fatal set, whatever
S.dev and the operands are, the command answers the state with response SessionFatal (10), results 0 and
0 and the engine idle; nothing else changes and no event is emitted. (From R212, R246, R248, R252,
R253.) -/
def Obligations.SessionFatalRefuses : Prop :=
  ∀ (i : Instr) (c : Byte) (s : State), hostOpcode i = some c → s.fatal = true →
    passesLatch i = false → exec i s = .next (refusedState 10#32 s)

/-- For every command of the opcode map that the latch lets through and the legality table forbids now,
whatever the operands are, the command answers the state with response IllegalState (8), results 0 and 0
and the engine idle; nothing else changes and no event is emitted. (From R171, R212, R246, R252, R300.) -/
def Obligations.IllegalStateRefuses : Prop :=
  ∀ (i : Instr) (c : Byte) (s : State), hostOpcode i = some c →
    (s.fatal = true → passesLatch i = true) → allowedNow i s = false →
    exec i s = .next (refusedState 8#32 s)

/-- For every command of the opcode map that passes the latch and the legality table but fails its operand
check (a misaligned flash address, a granule outside the windows, off its boundary or of size 0, a sum
past 2^32, a ramAddr misaligned or above 0x7FFC, an operation code not among the four, a width above
32), the command answers the state with response BadArgument (9), results 0 and 0 and the engine idle;
nothing else changes and no event is emitted. The checks are stated in numbers, without wrap. (From R65,
R69, R112, R113, R211, R212, R231, R252.) -/
def Obligations.BadArgumentRefuses : Prop :=
  ∀ (i : Instr) (c : Byte) (s : State), hostOpcode i = some c →
    (s.fatal = true → passesLatch i = true) → allowedNow i s = true → operandsOk i s = false →
    exec i s = .next (refusedState 9#32 s)

/-- No host command hangs, faults or is refused by the model: each answers a next state with the engine idle
and not busy and a response code of R240 (never 6, 7, 11 or above), and with the operand registers and
the pending requests as they were. (From R32, R99, R163, R212, R240.) -/
def Obligations.EveryCommandEnds : Prop :=
  ∀ (i : Instr) (c : Byte) (s : State), hostOpcode i = some c →
    ∃ t, exec i s = .next t ∧ t.busy = false ∧ t.seq = { op := none, step := 0 } ∧
      t.rsp.toNat ∈ [0, 1, 2, 3, 4, 5, 8, 9, 10] ∧ OperandsKept s t

/-- Whenever a host command of opcode c ends with an error code (1 to 5), S.fatal is set, S.err holds that
code, c, an address and the two values that RES0 and RES1 report; the session was not fatal before; for
BusTimeout and ProtocolFraming S.dev is Unknown and S.ident.valid 0; for the other three S.dev is as it
was. A command that ends with any other code leaves the latch as it was, but CLEAR_ERROR, which clears
it. (From R250, R251, R253.) -/
def Obligations.ErrorsAreTaken : Prop :=
  ∀ (i : Instr) (c : Byte) (s t : State), hostOpcode i = some c → exec i s = .next t →
    (1 ≤ t.rsp.toNat ∧ t.rsp.toNat ≤ 5 →
      s.fatal = false ∧ Raised t (t.rsp.setWidth 4) c t.err.addr t.res0 t.res1 ∧
      (t.rsp.toNat ≤ 2 → t.dev = .unknown ∧ t.ident.valid = false) ∧
      (3 ≤ t.rsp.toNat → t.dev = s.dev)) ∧
    (¬ (1 ≤ t.rsp.toNat ∧ t.rsp.toNat ≤ 5) → i ≠ .clearError → LatchKept s t)

/-- When a host command responds OK it was allowed by the legality table and S.dev after it is that table's
last column (NOP and CLEAR_ERROR leave it); a command that sets S.dev to anything but DebugMode leaves
S.ident.valid 0; only IDENTIFY can make a valid identity out of an invalid one; a refused command leaves
S.dev and the identity as they were. (From R38, R170, R171, R283, R290.) -/
def Obligations.DeviceStateTransitions : Prop :=
  ∀ (i : Instr) (c : Byte) (s t : State), hostOpcode i = some c → exec i s = .next t →
    (t.rsp = 0#32 → Accepted i s ∧ t.dev = devAfter i s.dev) ∧
    (t.rsp = 0#32 → passesLatch i = false → t.dev ≠ .debugMode → t.ident.valid = false) ∧
    (t.ident.valid = true → i ≠ .identify → t.ident = s.ident) ∧
    (8 ≤ t.rsp.toNat → DeviceKept s t)

/-- After reset: the pins 1, 0, 1 and released, S.tdo_last 0, S.tap UnknownTap, S.ones 0, S.ir_sel None,
S.tap_sel UnknownSel, S.res 0 and 0, the operands 0, S.seq IDLE, S.busy 0, S.dev Unknown, S.fatal 0 and
the latch 0, S.inj_count 0, the identity invalid and 0, the response registers 0; and the trace is
exactly the five Config and four Drive events, in order. (The values are R50's; the trace is R281's.)
(States R281.) -/
def Obligations.ResetState : Prop :=
  State.reset.trace =
    [.config .tms .output, .config .tdi .output, .config .tck .output, .config .rst .output,
     .config .tdo .input, .drive .tms true, .drive .tdi false, .drive .tck true, .drive .rst true] ∧
  State.reset.bus.pins = { tms := true, tdi := false, tck := true, rst := false } ∧
  State.reset.bus.tdoLast = false ∧ State.reset.bus.tap = .unknownTap ∧ State.reset.bus.ones = 0#3 ∧
  State.reset.bus.irSel = none ∧ State.reset.bus.tapSel = .unknownSel ∧
  State.reset.res = { value := 0#32, pracc := false } ∧
  State.reset.arg0 = 0#32 ∧ State.reset.arg1 = 0#32 ∧ State.reset.arg2 = 0#32 ∧
  State.reset.seq = { op := none, step := 0 } ∧ State.reset.busy = false ∧
  State.reset.dev = .unknown ∧ State.reset.fatal = false ∧
  State.reset.err = { code := 0#4, op := 0#8, addr := 0#32, obs := 0#32, exp := 0#32 } ∧
  State.reset.injCount = 0#32 ∧
  State.reset.ident =
    { valid := false, id := 0#32, name := Vector.replicate 12 0#8, rowWords := 0#16, bfmKB := 0#16,
      pfmKB := 0#16 } ∧
  State.reset.rsp = 0#32 ∧ State.reset.res0 = 0#32 ∧ State.reset.res1 = 0#32

/-- EngineInv holds at reset: I1 to I6 of R43, and in Run-Test/Idle no high pulse is counted (the clause the
model adds to make R43 inductive, read from the graph of R26). (From R43, R50.) -/
def Obligations.ResetHasInvariant : Prop :=
  EngineInv State.reset

/-- From every state with EngineInv (I1 to I6 of R43, and no high pulse counted in Run-Test/Idle), whatever
is requested and whatever the target answers, a step that answers a next state answers one with
EngineInv: an identity is valid in DebugMode only; MtapSelected and DebugMode mean the reset level, Run-
Test/Idle and the TAP and register selected; the clock rests high; the engine is idle between commands;
S.fatal is set exactly with an error code 1 to 5. (From R26, R43, R171, R250.) -/
def Obligations.StepKeepsInvariant : Prop :=
  ∀ s t : State, EngineInv s → step s = .next t → EngineInv t

/-- In every state of a run from reset, of a machine with any legal catalog, in which the environment may
lay out any TDO answers and any host writes between steps: a valid identity implies DebugMode;
MtapSelected implies reset asserted, Run-Test/Idle, MTAP and (5, MTAP_COMMAND); DebugMode implies reset
released, Run-Test/Idle and ETAP; the clock is at its idle level; S.seq is (IDLE, 0) and S.busy 0;
S.fatal is 1 if and only if S.err.code is 1 to 5. (The corollary of StepKeepsInvariant over runs.)
(States R43.) -/
def Obligations.ReachableStatesKeepR43 : Prop :=
  ∀ s : State, Reachable s → Inv43 s

/-- From every session, UnknownTap included, TapReset is SetMode(6, 0x1F) with its word dropped: its trace
is the frame with TMS 1,1,1,1,1,0, the fifth pulse leaves the shadow in Test-Logic-Reset, the sixth in
Run-Test/Idle, with no high pulse counted, S.ir_sel None and S.tap_sel UnknownSel. (States R137.) -/
def Obligations.TapResetReachesIdle : Prop :=
  ∀ b : TapSession,
    tapReset b = (setMode 6 0x1F#32 b).2 ∧
    (modeFrame 6 0x1F#32).map Pulse.tms = [true, true, true, true, true, false] ∧
    Did b (tapReset b) [.frame (modeFrame 6 0x1F#32)] ∧
    (tapsAlong (modeFrame 6 0x1F#32) b)[4]? = some .testLogicReset ∧
    (tapsAlong (modeFrame 6 0x1F#32) b)[5]? = some .runTestIdle ∧
    ShadowAt (tapReset b) none .unknownSel

/-- From Run-Test/Idle with no high pulse counted (the added premise is kept by every step), SendCommand,
XferData and XferFastData of any width from 1 return there, and the shadow passes exactly the states of
R93 to R95; from any state of the shadow they emit exactly the events of their frame, which depend on
the answers only. (From R93, R94, R95, R136, R285.) -/
def Obligations.ScansReturnToIdle : Prop :=
  ∀ (bits : Nat) (value : Word) (b : TapSession), bits ≠ 0 →
    ((sendCommand bits value b).trace = b.trace ++ frameEvents b 0 (irFrame bits value) ∧
     (xferData bits value b).2.trace = b.trace ++ frameEvents b 0 (drFrame bits value) ∧
     (fastScan value b).2.trace = b.trace ++ frameEvents b 0 (fdFrame value)) ∧
    (AtIdle b →
      AtIdle (sendCommand bits value b) ∧ AtIdle (xferData bits value b).2 ∧
      AtIdle (fastScan value b).2 ∧
      tapsAlong (irFrame bits value) b =
        [TapState.selectDR, .selectIR, .captureIR] ++ List.replicate bits TapState.shiftIR ++
          [TapState.exit1IR, .updateIR, .runTestIdle] ∧
      tapsAlong (drFrame bits value) b =
        [TapState.selectDR, .captureDR] ++ List.replicate bits TapState.shiftDR ++
          [TapState.exit1DR, .updateDR, .runTestIdle] ∧
      tapsAlong (fdFrame value) b =
        [TapState.selectDR, .captureDR] ++ List.replicate 33 TapState.shiftDR ++
          [TapState.exit1DR, .updateDR, .runTestIdle])

/-- Every pulse emits Drive(TMS), Drive(TDI), Drive(TCK, 0), Read(TDO), Drive(TCK, 1) in this order; SetMode
of any width emits 5 events a bit, SendCommand of width at least 1 5*(bits+6), XferData 5*(bits+5), the
fast-data scan 190. SetMode(0, v) and XferData(0, v) return 0 and SendCommand(0, v) returns, each
leaving the whole session, its trace, S.ir_sel and S.tdo_last included, as it was. (States R96, R139.) -/
def Obligations.FrameEventCounts : Prop :=
  (∀ (tms tdi : Bool) (b : TapSession), (bitXfer tms tdi b).trace = b.trace ++
    [.drive .tms tms, .drive .tdi tdi, .drive .tck false, .read (b.answer 0), .drive .tck true]) ∧
  (∀ (bits : Nat) (value : Word) (b : TapSession),
    (setMode bits value b).2.trace.length = b.trace.length + 5 * bits ∧
    (bits ≠ 0 → (sendCommand bits value b).trace.length = b.trace.length + 5 * (bits + 6)) ∧
    (bits ≠ 0 → (xferData bits value b).2.trace.length = b.trace.length + 5 * (bits + 5)) ∧
    (fastScan value b).2.trace.length = b.trace.length + 190) ∧
  (∀ (value : Word) (b : TapSession),
    setMode 0 value b = (0#32, b) ∧ xferData 0 value b = (0#32, b) ∧ sendCommand 0 value b = b)

/-- For every session and every level of TDI: a pulse with TMS low sets S.ones to 0 and moves S.tap by the
column t=0 of R26, UnknownTap staying; a pulse with TMS high sets S.ones to min(S.ones + 1, 5) and,
while that is below 5, moves S.tap by the column t=1, UnknownTap staying; when it is 5, S.tap is Test-
Logic-Reset from every state. Whenever S.tap becomes Test-Logic-Reset S.ir_sel is None and S.tap_sel
UnknownSel, and otherwise both are as they were. Five pulses with TMS high in a row reach Test-Logic-
Reset with S.ones 5 from every session, and a sixth keeps both. (From R25, R26, R27, R28, R29.) -/
def Obligations.ShadowTapGraph : Prop :=
  ∀ (b : TapSession) (tdi : Bool),
    (bitXfer false tdi b).ones = 0#3 ∧ (bitXfer true tdi b).ones.toNat = min (b.ones.toNat + 1) 5 ∧
    (∀ p ∈ [
        (TapState.testLogicReset, .runTestIdle, .testLogicReset),
        (.runTestIdle, .runTestIdle, .selectDR),
        (.selectDR, .captureDR, .selectIR),
        (.captureDR, .shiftDR, .exit1DR),
        (.shiftDR, .shiftDR, .exit1DR),
        (.exit1DR, .pauseDR, .updateDR),
        (.pauseDR, .pauseDR, .exit2DR),
        (.exit2DR, .shiftDR, .updateDR),
        (.updateDR, .runTestIdle, .selectDR),
        (.selectIR, .captureIR, .testLogicReset),
        (.captureIR, .shiftIR, .exit1IR),
        (.shiftIR, .shiftIR, .exit1IR),
        (.exit1IR, .pauseIR, .updateIR),
        (.pauseIR, .pauseIR, .exit2IR),
        (.exit2IR, .shiftIR, .updateIR),
        (.updateIR, .runTestIdle, .selectDR)],
      b.tap = p.1 →
        (bitXfer false tdi b).tap = p.2.1 ∧
        (b.ones.toNat + 1 < 5 → (bitXfer true tdi b).tap = p.2.2)) ∧
    (b.tap = .unknownTap →
      (bitXfer false tdi b).tap = .unknownTap ∧
      (b.ones.toNat + 1 < 5 → (bitXfer true tdi b).tap = .unknownTap)) ∧
    (5 ≤ b.ones.toNat + 1 → (bitXfer true tdi b).tap = .testLogicReset) ∧
    (∀ tms : Bool,
      ((bitXfer tms tdi b).tap = .testLogicReset →
        (bitXfer tms tdi b).irSel = none ∧ (bitXfer tms tdi b).tapSel = .unknownSel) ∧
      ((bitXfer tms tdi b).tap ≠ .testLogicReset →
        (bitXfer tms tdi b).irSel = b.irSel ∧ (bitXfer tms tdi b).tapSel = b.tapSel)) ∧
    (∀ n, 5 ≤ n → n ≤ 6 →
      (Nat.repeat (bitXfer true tdi) n b).tap = .testLogicReset ∧
      (Nat.repeat (bitXfer true tdi) n b).ones = 5#3)

/-- Every step that answers a next state leaves the events already emitted in place, in order, whether its
command ends OK, with an error or refused; unless the reset input was requested, what it appends drives
no line but TMS, TDI, TCK and RST, configures no line and sleeps only for a positive time. That a reset
input, too, leaves the earlier trace in place is the model's choice (assumption 7): R281 says that the
nine events start the trace. The catalog, a parameter that the model holds in the state (assumption 8),
is as it was after every step. (From R22, R40, R250, R251, R256, R281, notes/assumptions/7.md,
notes/assumptions/8.md.) -/
def Obligations.TraceOnlyGrows : Prop :=
  ∀ s t : State, step s = .next t → t.catalog = s.catalog ∧
    ∃ es : List Event, t.trace = s.trace ++ es ∧
      (s.requests.head? ≠ some .reset → ∀ e ∈ es,
        (∀ line dir, e ≠ .config line dir) ∧ (∀ level, e ≠ .drive .tdo level) ∧ e ≠ .sleep 0)

/-- Injecting any template with its own length as the expected count, from any state and for any answers,
ends with a result or with the BusTimeout of one of its words, never with the ProtocolFraming of the
count check. (From R160, R162, R184.) -/
def Obligations.CountCheckNeverFails : Prop :=
  ∀ (template : List Instr) (s t : State) (e : RaiseInfo),
    injectTemplate template template.length s = .raised e t →
    e.kind = .busTimeout ∧ e.addr ∈ template.map wordOf ∧ e.exp = 0x0004C000#32

/-- For every catalog: the scan finds record i exactly when record i has that identifier, the identifier is
not 0 and every record before has another identifier and is not the sentinel; and Identify over that
catalog, when the read succeeds, gives the found record's fields and index, or raises DeviceUnidentified
with the word as read where the scan finds none. R40 and R83 speak of legal catalogs, which end in the
sentinel; that a list with no sentinel ends as if one stood there is the model's choice (assumption 10).
(From R40, R83, R210, notes/assumptions/10.md.) -/
def Obligations.CatalogFirstMatchWins : Prop :=
  (∀ (catalog : List DeviceRecord) (id : Word) (i : Nat) (r : DeviceRecord),
    scanCatalog id 0 catalog = some (i, r) ↔
      catalog[i]? = some r ∧ r.id = id ∧ id ≠ 0#32 ∧
        ∀ j < i, ∃ q, catalog[j]? = some q ∧ q.id ≠ id ∧ q.id ≠ 0#32) ∧
  (∀ (catalog : List DeviceRecord) (s : State) (e : Nat),
    injectionsEnd s.bus 5 0 = some e → drainPracc s.bus e = true →
    (∀ (i : Nat) (r : DeviceRecord),
      scanCatalog (drainWord s.bus e &&& 0x0FFFFFFF#32) 0 catalog = some (i, r) →
      ∃ t, identifyIn catalog s = .done i t ∧ t.ident =
        { valid := true, id := r.id, name := r.name, rowWords := r.rowWords, bfmKB := r.bfmKB,
          pfmKB := r.pfmKB }) ∧
    (scanCatalog (drainWord s.bus e &&& 0x0FFFFFFF#32) 0 catalog = none →
      ∃ t, identifyIn catalog s =
        .raised ⟨.deviceUnidentified, 0xBF80F220#32, drainWord s.bus e, 0#32⟩ t ∧
        t.ident.valid = false))
end

