-- ==== Sys2Proof/Laws/Session.lean ====
section
/-! SUPPORT. Once for all what a pulse, a pulse list and a shift do to the TAP session. A session is
described by the pulse list it ran (`runPulses`); the TAP primitives of Machine/Ops.lean are pulse lists
up to the shift registers, which only the shift itself writes. -/

namespace Sys2Proof.Machine

/-! ### The answers -/

@[simp] theorem answer_takeAnswer (b : TapSession) (k : Nat) :
    b.takeAnswer.answer k = b.answer (k + 1) := by
  unfold TapSession.answer TapSession.takeAnswer
  rcases b with ⟨_, _, _, _, _, _, _, tdoIn, samples, _⟩
  cases tdoIn <;> simp [Nat.add_assoc, Nat.add_comm 1 k]

theorem nextAnswer_eq (b : TapSession) : b.nextAnswer = b.answer 0 := by
  unfold TapSession.answer TapSession.nextAnswer
  rcases b with ⟨_, _, _, _, _, _, _, tdoIn, samples, _⟩
  cases tdoIn <;> simp

/-- Answers depend on the answers laid out and the samples taken only. -/
theorem answer_congr {b b' : TapSession} (h : b'.tdoIn = b.tdoIn) (h' : b'.samples = b.samples) :
    b'.answer = b.answer := by
  funext k; unfold TapSession.answer; rw [h, h']

/-- After `n` samples, answer `k` is answer `n + k` of before. -/
theorem answer_drop {b b' : TapSession} {n : Nat} (h : b'.tdoIn = b.tdoIn.drop n)
    (h' : b'.samples = b.samples + n) (k : Nat) : b'.answer k = b.answer (n + k) := by
  unfold TapSession.answer; rw [h, h']; simp [List.getD_eq_getElem?_getD, Nat.add_assoc]

theorem answerWord_congr {b b' : TapSession} {off off' : Nat}
    (h : ∀ k, b'.answer (off' + k) = b.answer (off + k)) (n : Nat) :
    b'.answerWord off' n = b.answerWord off n := by
  induction n with
  | zero => rfl
  | succ n ih => simp only [TapSession.answerWord, ih, h]

theorem getLsbD_bit32 (x : Bool) (i : Nat) : (Bits.bit32 x).getLsbD i = (decide (i = 0) && x) := by
  cases x <;> by_cases h : i = 0 <;> simp_all [Bits.bit32]

/-- Bit `i` of a word of answers (R141): the answer to data pulse `i`, and 0 from `n` on. -/
theorem getLsbD_answerWord (b : TapSession) (off n i : Nat) (hn : n ≤ 32) :
    (b.answerWord off n).getLsbD i = (decide (i < n) && b.answer (off + i)) := by
  induction n with
  | zero => simp [TapSession.answerWord]
  | succ n ih =>
    have ih := ih (by omega)
    simp only [TapSession.answerWord, BitVec.getLsbD_or, ih, BitVec.getLsbD_shiftLeft, getLsbD_bit32]
    rcases Nat.lt_trichotomy i n with h | h | h
    · simp [h, show i < n + 1 by omega]
    · subst h; simp [show i < 32 by omega]
    · simp [show ¬ i < n by omega, show ¬ i < n + 1 by omega, show ¬ i - n = 0 by omega]

/-! ### One pulse -/

section bitXfer
variable (tms tdi : Bool) (b : TapSession)

@[simp] theorem bitXfer_pins :
    (bitXfer tms tdi b).pins = { tms := tms, tdi := tdi, tck := true, rst := b.pins.rst } := rfl
@[simp] theorem bitXfer_tdoLast : (bitXfer tms tdi b).tdoLast = b.answer 0 := nextAnswer_eq b
@[simp] theorem bitXfer_tap : (bitXfer tms tdi b).tap = shadowTap b.tap b.ones tms := rfl
@[simp] theorem bitXfer_ones : (bitXfer tms tdi b).ones = nextOnes b.ones tms := rfl
@[simp] theorem bitXfer_irSel :
    (bitXfer tms tdi b).irSel =
      if shadowTap b.tap b.ones tms = .testLogicReset then none else b.irSel := rfl
@[simp] theorem bitXfer_tapSel :
    (bitXfer tms tdi b).tapSel =
      if shadowTap b.tap b.ones tms = .testLogicReset then .unknownSel else b.tapSel := rfl
@[simp] theorem bitXfer_shift : (bitXfer tms tdi b).shift = b.shift := rfl
@[simp] theorem bitXfer_tdoIn : (bitXfer tms tdi b).tdoIn = b.tdoIn.tail := rfl
@[simp] theorem bitXfer_samples : (bitXfer tms tdi b).samples = b.samples + 1 := rfl
@[simp] theorem bitXfer_trace :
    (bitXfer tms tdi b).trace = b.trace ++ pulseEvents ⟨tms, tdi⟩ (b.answer 0) := by
  rw [← nextAnswer_eq]
  simp [TapSession.trace, bitXfer, clockPulse, advanceShadow, TapSession.driveTck, TapSession.driveTms,
    TapSession.driveTdi, TapSession.readTdo, TapSession.emit, TapSession.takeAnswer, pulseEvents]
  rfl

@[simp] theorem bitXfer_answer (k : Nat) : (bitXfer tms tdi b).answer k = b.answer (k + 1) := by
  rw [answer_drop (b := b) (n := 1) (by simp) rfl, Nat.add_comm]

end bitXfer

/-! ### Pulse lists -/

/-- A pulse list, pulse by pulse. -/
def runPulses : List Pulse → TapSession → TapSession
  | [], b => b
  | p :: ps, b => runPulses ps (bitXfer p.tms p.tdi b)

@[simp] theorem runPulses_nil (b : TapSession) : runPulses [] b = b := rfl
@[simp] theorem runPulses_cons (p : Pulse) (ps : List Pulse) (b : TapSession) :
    runPulses (p :: ps) b = runPulses ps (bitXfer p.tms p.tdi b) := rfl

theorem runPulses_append (ps qs : List Pulse) (b : TapSession) :
    runPulses (ps ++ qs) b = runPulses qs (runPulses ps b) := by
  induction ps generalizing b with
  | nil => rfl
  | cons p ps ih => simp [ih]

@[simp] theorem runPulses_shift (ps : List Pulse) (b : TapSession) :
    (runPulses ps b).shift = b.shift := by
  induction ps generalizing b with
  | nil => rfl
  | cons p ps ih => simp [ih]

@[simp] theorem runPulses_rst (ps : List Pulse) (b : TapSession) :
    (runPulses ps b).pins.rst = b.pins.rst := by
  induction ps generalizing b with
  | nil => rfl
  | cons p ps ih => simp [ih]

@[simp] theorem runPulses_tdoIn (ps : List Pulse) (b : TapSession) :
    (runPulses ps b).tdoIn = b.tdoIn.drop ps.length := by
  induction ps generalizing b with
  | nil => rfl
  | cons p ps ih => simp [ih]

@[simp] theorem runPulses_samples (ps : List Pulse) (b : TapSession) :
    (runPulses ps b).samples = b.samples + ps.length := by
  induction ps generalizing b with
  | nil => rfl
  | cons p ps ih => simp [ih]; omega

theorem runPulses_answer (ps : List Pulse) (b : TapSession) (k : Nat) :
    (runPulses ps b).answer k = b.answer (ps.length + k) :=
  answer_drop (by simp) (by simp) k

theorem frameEvents_shift {b b' : TapSession} {off off' : Nat}
    (h : ∀ k, b'.answer (off' + k) = b.answer (off + k)) (ps : List Pulse) :
    frameEvents b' off' ps = frameEvents b off ps := by
  induction ps generalizing off off' with
  | nil => rfl
  | cons p ps ih =>
    simp only [frameEvents]
    rw [ih (off := off + 1) (off' := off' + 1) (fun k => by
      have := h (1 + k); simpa [Nat.add_assoc] using this)]
    have := h 0
    simp only [Nat.add_zero] at this
    rw [this]

theorem frameEvents_append (b : TapSession) (off : Nat) (ps qs : List Pulse) :
    frameEvents b off (ps ++ qs) = frameEvents b off ps ++ frameEvents b (off + ps.length) qs := by
  induction ps generalizing off with
  | nil => simp [frameEvents]
  | cons p ps ih => simp [frameEvents, ih, Nat.add_assoc, Nat.add_comm 1]

@[simp] theorem runPulses_trace (ps : List Pulse) (b : TapSession) :
    (runPulses ps b).trace = b.trace ++ frameEvents b 0 ps := by
  induction ps generalizing b with
  | nil => simp [frameEvents]
  | cons p ps ih =>
    simp only [runPulses_cons, ih, bitXfer_trace, frameEvents, List.append_assoc]
    rw [frameEvents_shift (b := b) (off := 0 + 1) (off' := 0)]
    intro k; simp [Nat.add_comm]

/-- After at least one pulse TCK is high (R130). -/
theorem runPulses_tck (ps : List Pulse) (b : TapSession) (h : b.pins.tck = true) :
    (runPulses ps b).pins.tck = true := by
  induction ps generalizing b with
  | nil => exact h
  | cons p ps ih => exact ih _ rfl

/-! ### The shift registers stand beside the pulses -/

/-- A session with other shift registers. -/
def TapSession.setShift (b : TapSession) (h : ShiftRegs) : TapSession := { b with shift := h }

section setShift
variable (b : TapSession) (h : ShiftRegs)
@[simp] theorem setShift_pins : (b.setShift h).pins = b.pins := rfl
@[simp] theorem setShift_tdoLast : (b.setShift h).tdoLast = b.tdoLast := rfl
@[simp] theorem setShift_tap : (b.setShift h).tap = b.tap := rfl
@[simp] theorem setShift_ones : (b.setShift h).ones = b.ones := rfl
@[simp] theorem setShift_irSel : (b.setShift h).irSel = b.irSel := rfl
@[simp] theorem setShift_tapSel : (b.setShift h).tapSel = b.tapSel := rfl
@[simp] theorem setShift_shift : (b.setShift h).shift = h := rfl
@[simp] theorem setShift_tdoIn : (b.setShift h).tdoIn = b.tdoIn := rfl
@[simp] theorem setShift_samples : (b.setShift h).samples = b.samples := rfl
@[simp] theorem setShift_trace : (b.setShift h).trace = b.trace := rfl
@[simp] theorem setShift_answer (k : Nat) : (b.setShift h).answer k = b.answer k := rfl
@[simp] theorem setShift_setShift (h' : ShiftRegs) : (b.setShift h).setShift h' = b.setShift h' := rfl
theorem setShift_self : b.setShift b.shift = b := rfl
@[simp] theorem bitXfer_setShift (tms tdi : Bool) :
    bitXfer tms tdi (b.setShift h) = (bitXfer tms tdi b).setShift h := rfl
end setShift

@[simp] theorem runPulses_setShift (ps : List Pulse) (b : TapSession) (h : ShiftRegs) :
    runPulses ps (b.setShift h) = (runPulses ps b).setShift h := by
  induction ps generalizing b with
  | nil => rfl
  | cons p ps ih => simp [ih]

/-- The pulses of `shiftBits`. -/
def shiftPulses (tms tdi : Nat → Bool) (n : Nat) : List Pulse :=
  (List.range n).map fun i => ⟨tms i, tdi i⟩

@[simp] theorem shiftPulses_length (tms tdi : Nat → Bool) (n : Nat) :
    (shiftPulses tms tdi n).length = n := by simp [shiftPulses]

theorem shiftPulses_succ (tms tdi : Nat → Bool) (n : Nat) :
    shiftPulses tms tdi (n + 1) = shiftPulses tms tdi n ++ [⟨tms n, tdi n⟩] := by
  simp [shiftPulses, List.range_succ]

/-- The shift registers after `n` data pulses from freshly loaded ones: `S.sr_in` has the answers where
they are kept. -/
def shiftedRegs (b : TapSession) (keep : Bool) (value : Word) (n : Nat) : ShiftRegs :=
  { srOut := value, srIn := if keep then b.answerWord 0 n else 0#32, bitcnt := BitVec.ofNat 6 n }

/-- A shift (R132, R134) is its pulses, and the samples gathered. -/
theorem shiftBits_eq (keep : Bool) (tms tdi : Nat → Bool) (n : Nat) (value : Word) (b : TapSession) :
    shiftBits keep tms tdi n (loadShift value b) =
      (runPulses (shiftPulses tms tdi n) b).setShift (shiftedRegs b keep value n) := by
  induction n with
  | zero => simp [shiftBits, shiftPulses, loadShift, shiftedRegs, TapSession.answerWord, TapSession.setShift]
  | succ n ih =>
    rw [shiftBits, ih, shiftPulses_succ, runPulses_append]
    simp only [bitXfer_setShift, runPulses_cons, runPulses_nil]
    unfold gatherBit
    simp only [setShift_shift, setShift_tdoLast, bitXfer_tdoLast, runPulses_answer, shiftPulses_length]
    cases keep <;>
      simp [TapSession.setShift, shiftedRegs, TapSession.answerWord, runPulses_answer]

end Sys2Proof.Machine
end

