-- ==== Sys2Proof/Laws/Tap.lean ====
section
/-! SUPPORT. The TAP transfer primitives (R132 to R138): each is the frame of R92 to R95, its result the
answers of the frame's data pulses; and where a frame leaves the shadow TAP (R136, R137). -/

namespace Sys2Proof.Machine

theorem dataPulses_eq (bits : Nat) (value : Word) :
    dataPulses bits value = shiftPulses (lastBit bits) value.getLsbD bits := rfl

theorem modeFrame_eq (bits : Nat) (value : Word) :
    modeFrame bits value = shiftPulses value.getLsbD (fun _ => false) bits := rfl

@[simp] theorem dataPulses_length (bits : Nat) (value : Word) : (dataPulses bits value).length = bits := by
  simp [dataPulses]
@[simp] theorem modeFrame_length (bits : Nat) (value : Word) : (modeFrame bits value).length = bits := by
  simp [modeFrame]
@[simp] theorem irFrame_length (bits : Nat) (opcode : Word) : (irFrame bits opcode).length = bits + 6 := by
  simp [irFrame]
@[simp] theorem drFrame_length (bits : Nat) (value : Word) : (drFrame bits value).length = bits + 5 := by
  simp [drFrame]
@[simp] theorem fdFrame_length (value : Word) : (fdFrame value).length = 38 := by
  simp [fdFrame]

/-- The shift registers after a scan that gathered `word`. -/
def scanRegs (value word : Word) (bits : Nat) : ShiftRegs :=
  { srOut := value, srIn := word, bitcnt := BitVec.ofNat 6 bits }

theorem setMode_zero (value : Word) (b : TapSession) : setMode 0 value b = (0#32, b) := rfl
theorem sendCommand_zero (opcode : Word) (b : TapSession) : sendCommand 0 opcode b = b := rfl
theorem xferData_zero (value : Word) (b : TapSession) : xferData 0 value b = (0#32, b) := rfl

/-- SetMode (R132) is frame MODE (R92), its result the answers. -/
theorem setMode_eq {bits : Nat} (hb : bits ≠ 0) (value : Word) (b : TapSession) :
    setMode bits value b =
      (b.answerWord 0 bits,
        (runPulses (modeFrame bits value) b).setShift (scanRegs value (b.answerWord 0 bits) bits)) := by
  simp only [setMode, hb, if_false, shiftBits_eq, modeFrame_eq]
  rfl

/-- SendCommand (R133) is frame IRSCAN (R93), and the selection at its end. -/
theorem sendCommand_eq {bits : Nat} (hb : bits ≠ 0) (opcode : Word) (b : TapSession) :
    sendCommand bits opcode b =
      selectIr bits opcode
        ((runPulses (irFrame bits opcode) b).setShift (scanRegs opcode 0#32 bits)) := by
  simp only [sendCommand, hb, if_false, shiftBits_eq, irFrame, runPulses_append, dataPulses_eq,
    runPulses_cons, runPulses_nil, bitXfer_setShift]
  rfl

theorem answerWord_runPulses (ps : List Pulse) (b : TapSession) (off n : Nat) :
    (runPulses ps b).answerWord off n = b.answerWord (ps.length + off) n :=
  answerWord_congr (fun k => by rw [runPulses_answer, Nat.add_assoc]) n

/-- XferData (R135) is frame DRSCAN (R94), its result the answers of the data pulses. -/
theorem xferData_eq {bits : Nat} (hb : bits ≠ 0) (value : Word) (b : TapSession) :
    xferData bits value b =
      (b.answerWord 3 bits,
        (runPulses (drFrame bits value) b).setShift (scanRegs value (b.answerWord 3 bits) bits)) := by
  have hh : scanHeader b = runPulses [⟨true, false⟩, ⟨false, false⟩, ⟨false, false⟩] b := rfl
  simp only [xferData, hb, if_false, xferDataData, hh, shiftBits_eq, drFrame, runPulses_append,
    dataPulses_eq, scanFooter, bitXfer_setShift, setShift_shift, shiftedRegs, if_true,
    answerWord_runPulses]
  rfl

/-- The scan of XferFastData (R138) is frame FDSCAN (R95): the handshake bit is the answer of pulse 3. -/
theorem fastScan_eq (value : Word) (b : TapSession) :
    fastScan value b =
      ({ value := b.answerWord 4 32, pracc := b.answer 3 },
        (runPulses (fdFrame value) b).setShift (scanRegs value (b.answerWord 4 32) 32)) := by
  have hh : scanHeader b = runPulses [⟨true, false⟩, ⟨false, false⟩, ⟨false, false⟩] b := rfl
  have h4 : bitXfer false false (scanHeader b) =
      runPulses [⟨true, false⟩, ⟨false, false⟩, ⟨false, false⟩, ⟨false, false⟩] b := rfl
  have hp : (bitXfer false false (scanHeader b)).tdoLast = b.answer 3 := by
    rw [bitXfer_tdoLast, hh, runPulses_answer]; rfl
  simp only [fastScan, hp]
  simp only [h4, xferDataData, shiftBits_eq, fdFrame, runPulses_append,
    dataPulses_eq, scanFooter, bitXfer_setShift, setShift_shift, shiftedRegs, if_true,
    answerWord_runPulses]
  rfl

/-! ### The shadow TAP -/

theorem nextOnes_false (o : BitVec 3) : nextOnes o false = 0#3 := rfl

theorem shadowTap_false (t : TapState) (o : BitVec 3) : shadowTap t o false = nextTap t false := by
  simp [shadowTap, nextOnes_false]

@[simp] theorem bitXfer_shadow (tms tdi : Bool) (b : TapSession) :
    (bitXfer tms tdi b).shadow = b.shadow.advance tms := rfl

@[simp] theorem setShift_shadow (b : TapSession) (h : ShiftRegs) : (b.setShift h).shadow = b.shadow := rfl

/-- The shadow after a pulse list depends on its TMS levels only. -/
theorem runPulses_shadow (ps : List Pulse) (b : TapSession) :
    (runPulses ps b).shadow = ps.foldl (fun h p => h.advance p.tms) b.shadow := by
  induction ps generalizing b with
  | nil => rfl
  | cons p ps ih => simp [ih]

/-- Data pulses before the last keep a shift state. -/
theorem advance_low_shiftDR (ir : Option IrSel) (sel : TapSel) :
    (Shadow.mk .shiftDR 0#3 ir sel).advance false = ⟨.shiftDR, 0#3, ir, sel⟩ := rfl
theorem advance_low_shiftIR (ir : Option IrSel) (sel : TapSel) :
    (Shadow.mk .shiftIR 0#3 ir sel).advance false = ⟨.shiftIR, 0#3, ir, sel⟩ := rfl

theorem foldl_low (n : Nat) (h : Shadow) (hh : h.advance false = h) (f : Nat → Pulse)
    (hf : ∀ i < n, (f i).tms = false) :
    ((List.range n).map f).foldl (fun h p => h.advance p.tms) h = h := by
  induction n with
  | zero => rfl
  | succ n ih =>
    rw [List.range_succ, List.map_append, List.foldl_append, ih (fun i hi => hf i (by omega))]
    simp [hf n (by omega), hh]

/-- The data pulses of a scan from a shift state: TMS rises on the last, and only there (R285). -/
theorem foldl_dataPulses {bits : Nat} (hb : bits ≠ 0) (value : Word) (h : Shadow)
    (hh : h.advance false = h) :
    (dataPulses bits value).foldl (fun h p => h.advance p.tms) h = h.advance true := by
  obtain ⟨n, rfl⟩ := Nat.exists_eq_succ_of_ne_zero hb
  rw [dataPulses, List.range_succ, List.map_append, List.foldl_append,
    foldl_low n h hh _ (fun i hi => by simp; omega)]
  simp

/-- An IR scan from Run-Test/Idle returns there (R136) and keeps the shadow's other fields. -/
theorem irFrame_shadow {bits : Nat} (hb : bits ≠ 0) (opcode : Word) (b : TapSession) (h : AtIdle b) :
    (runPulses (irFrame bits opcode) b).shadow = b.shadow := by
  obtain ⟨ht, ho⟩ := h
  rw [runPulses_shadow, irFrame, List.foldl_append, List.foldl_append]
  have h4 : [(⟨true, false⟩ : Pulse), ⟨true, false⟩, ⟨false, false⟩, ⟨false, false⟩].foldl
      (fun h p => h.advance p.tms) b.shadow = ⟨.shiftIR, 0#3, b.irSel, b.tapSel⟩ := by
    simp only [List.foldl_cons, List.foldl_nil, TapSession.shadow, ht, ho]; rfl
  rw [h4, foldl_dataPulses hb _ _ (advance_low_shiftIR _ _)]
  simp only [List.foldl_cons, List.foldl_nil, TapSession.shadow, ht, ho]; rfl

/-- A data scan from Run-Test/Idle returns there (R136) and keeps the shadow's other fields. -/
theorem drFrame_shadow {bits : Nat} (hb : bits ≠ 0) (value : Word) (b : TapSession) (h : AtIdle b) :
    (runPulses (drFrame bits value) b).shadow = b.shadow := by
  obtain ⟨ht, ho⟩ := h
  rw [runPulses_shadow, drFrame, List.foldl_append, List.foldl_append]
  have h4 : [(⟨true, false⟩ : Pulse), ⟨false, false⟩, ⟨false, false⟩].foldl
      (fun h p => h.advance p.tms) b.shadow = ⟨.shiftDR, 0#3, b.irSel, b.tapSel⟩ := by
    simp only [List.foldl_cons, List.foldl_nil, TapSession.shadow, ht, ho]; rfl
  rw [h4, foldl_dataPulses hb _ _ (advance_low_shiftDR _ _)]
  simp only [List.foldl_cons, List.foldl_nil, TapSession.shadow, ht, ho]; rfl

/-- A fast-data scan from Run-Test/Idle returns there (R136) and keeps the shadow's other fields. -/
theorem fdFrame_shadow (value : Word) (b : TapSession) (h : AtIdle b) :
    (runPulses (fdFrame value) b).shadow = b.shadow := by
  obtain ⟨ht, ho⟩ := h
  rw [runPulses_shadow, fdFrame, List.foldl_append, List.foldl_append]
  have h4 : [(⟨true, false⟩ : Pulse), ⟨false, false⟩, ⟨false, false⟩, ⟨false, false⟩].foldl
      (fun h p => h.advance p.tms) b.shadow = ⟨.shiftDR, 0#3, b.irSel, b.tapSel⟩ := by
    simp only [List.foldl_cons, List.foldl_nil, TapSession.shadow, ht, ho]; rfl
  rw [h4, foldl_dataPulses (by omega) _ _ (advance_low_shiftDR _ _)]
  simp only [List.foldl_cons, List.foldl_nil, TapSession.shadow, ht, ho]; rfl

/-- Five high pulses reach Test-Logic-Reset from every shadow, and a low one Run-Test/Idle (R137). -/
theorem tapReset_shadow (b : TapSession) :
    (runPulses (modeFrame 6 0x1F#32) b).shadow = ⟨.runTestIdle, 0#3, none, .unknownSel⟩ := by
  have hf : (modeFrame 6 0x1F#32).map Pulse.tms = [true, true, true, true, true, false] := by decide
  have hfold : ∀ (ps : List Pulse) (h : Shadow),
      ps.foldl (fun h p => h.advance p.tms) h = (ps.map Pulse.tms).foldl Shadow.advance h := by
    intro ps h; rw [List.foldl_map]
  rw [runPulses_shadow, hfold, hf]
  have h5 : ∀ o : BitVec 3, nextOnes (nextOnes (nextOnes (nextOnes (nextOnes o true) true) true) true) true
      = 5#3 := by decide
  simp [Shadow.advance, shadowTap, h5, nextTap, nextOnes_false]

/-- In Run-Test/Idle no high pulse is counted, after any pulse and so after any pulse list. -/
theorem runPulses_idle (ps : List Pulse) (b : TapSession)
    (h : b.tap = .runTestIdle → b.ones = 0#3) :
    (runPulses ps b).tap = .runTestIdle → (runPulses ps b).ones = 0#3 := by
  induction ps generalizing b with
  | nil => exact h
  | cons p ps ih =>
    refine ih _ ?_
    rw [bitXfer_tap, bitXfer_ones]
    rcases p with ⟨tms, tdi⟩
    cases tms with
    | false => intro _; rfl
    | true =>
      unfold shadowTap
      split
      · intro h; cases h
      · intro h; exfalso; revert h; cases b.tap <;> simp [nextTap]

end Sys2Proof.Machine
end

