-- ==== Sys2Proof/Laws/State.lean ====
section
/-! SUPPORT. The fields of the state after each named update of Machine/Ops.lean and Machine/Device.lean,
one lemma per field per update; and the host's side of the state, which no TAP-layer operation touches. -/

namespace Sys2Proof.Machine

section updates
variable (s : State)

@[simp] theorem onBus_bus (f : TapSession → TapSession) : (s.onBus f).bus = f s.bus := rfl
@[simp] theorem onBus_res (f : TapSession → TapSession) : (s.onBus f).res = s.res := rfl
@[simp] theorem onBus_poll (f : TapSession → TapSession) : (s.onBus f).poll = s.poll := rfl
@[simp] theorem onBus_arg0 (f : TapSession → TapSession) : (s.onBus f).arg0 = s.arg0 := rfl
@[simp] theorem onBus_arg1 (f : TapSession → TapSession) : (s.onBus f).arg1 = s.arg1 := rfl
@[simp] theorem onBus_arg2 (f : TapSession → TapSession) : (s.onBus f).arg2 = s.arg2 := rfl
@[simp] theorem onBus_seq (f : TapSession → TapSession) : (s.onBus f).seq = s.seq := rfl
@[simp] theorem onBus_busy (f : TapSession → TapSession) : (s.onBus f).busy = s.busy := rfl
@[simp] theorem onBus_dev (f : TapSession → TapSession) : (s.onBus f).dev = s.dev := rfl
@[simp] theorem onBus_fatal (f : TapSession → TapSession) : (s.onBus f).fatal = s.fatal := rfl
@[simp] theorem onBus_err (f : TapSession → TapSession) : (s.onBus f).err = s.err := rfl
@[simp] theorem onBus_injCount (f : TapSession → TapSession) : (s.onBus f).injCount = s.injCount := rfl
@[simp] theorem onBus_ident (f : TapSession → TapSession) : (s.onBus f).ident = s.ident := rfl
@[simp] theorem onBus_rsp (f : TapSession → TapSession) : (s.onBus f).rsp = s.rsp := rfl
@[simp] theorem onBus_res0 (f : TapSession → TapSession) : (s.onBus f).res0 = s.res0 := rfl
@[simp] theorem onBus_res1 (f : TapSession → TapSession) : (s.onBus f).res1 = s.res1 := rfl
@[simp] theorem onBus_requests (f : TapSession → TapSession) : (s.onBus f).requests = s.requests := rfl
@[simp] theorem onBus_catalog (f : TapSession → TapSession) : (s.onBus f).catalog = s.catalog := rfl

@[simp] theorem setRst_res (b : Bool) : (s.setRst b).res = s.res := rfl
@[simp] theorem setRst_poll (b : Bool) : (s.setRst b).poll = s.poll := rfl
@[simp] theorem setRst_arg0 (b : Bool) : (s.setRst b).arg0 = s.arg0 := rfl
@[simp] theorem setRst_arg1 (b : Bool) : (s.setRst b).arg1 = s.arg1 := rfl
@[simp] theorem setRst_arg2 (b : Bool) : (s.setRst b).arg2 = s.arg2 := rfl
@[simp] theorem setRst_seq (b : Bool) : (s.setRst b).seq = s.seq := rfl
@[simp] theorem setRst_busy (b : Bool) : (s.setRst b).busy = s.busy := rfl
@[simp] theorem setRst_dev (b : Bool) : (s.setRst b).dev = s.dev := rfl
@[simp] theorem setRst_fatal (b : Bool) : (s.setRst b).fatal = s.fatal := rfl
@[simp] theorem setRst_err (b : Bool) : (s.setRst b).err = s.err := rfl
@[simp] theorem setRst_injCount (b : Bool) : (s.setRst b).injCount = s.injCount := rfl
@[simp] theorem setRst_ident (b : Bool) : (s.setRst b).ident = s.ident := rfl
@[simp] theorem setRst_rsp (b : Bool) : (s.setRst b).rsp = s.rsp := rfl
@[simp] theorem setRst_res0 (b : Bool) : (s.setRst b).res0 = s.res0 := rfl
@[simp] theorem setRst_res1 (b : Bool) : (s.setRst b).res1 = s.res1 := rfl
@[simp] theorem setRst_requests (b : Bool) : (s.setRst b).requests = s.requests := rfl
@[simp] theorem setRst_catalog (b : Bool) : (s.setRst b).catalog = s.catalog := rfl

@[simp] theorem setDev_bus (d : DevState) : (s.setDev d).bus = s.bus := rfl
@[simp] theorem setDev_res (d : DevState) : (s.setDev d).res = s.res := rfl
@[simp] theorem setDev_poll (d : DevState) : (s.setDev d).poll = s.poll := rfl
@[simp] theorem setDev_arg0 (d : DevState) : (s.setDev d).arg0 = s.arg0 := rfl
@[simp] theorem setDev_arg1 (d : DevState) : (s.setDev d).arg1 = s.arg1 := rfl
@[simp] theorem setDev_arg2 (d : DevState) : (s.setDev d).arg2 = s.arg2 := rfl
@[simp] theorem setDev_seq (d : DevState) : (s.setDev d).seq = s.seq := rfl
@[simp] theorem setDev_busy (d : DevState) : (s.setDev d).busy = s.busy := rfl
@[simp] theorem setDev_dev (d : DevState) : (s.setDev d).dev = d := rfl
@[simp] theorem setDev_fatal (d : DevState) : (s.setDev d).fatal = s.fatal := rfl
@[simp] theorem setDev_err (d : DevState) : (s.setDev d).err = s.err := rfl
@[simp] theorem setDev_injCount (d : DevState) : (s.setDev d).injCount = s.injCount := rfl
@[simp] theorem setDev_ident (d : DevState) : (s.setDev d).ident = { s.ident with valid := if d = .debugMode then s.ident.valid else false } := rfl
@[simp] theorem setDev_rsp (d : DevState) : (s.setDev d).rsp = s.rsp := rfl
@[simp] theorem setDev_res0 (d : DevState) : (s.setDev d).res0 = s.res0 := rfl
@[simp] theorem setDev_res1 (d : DevState) : (s.setDev d).res1 = s.res1 := rfl
@[simp] theorem setDev_requests (d : DevState) : (s.setDev d).requests = s.requests := rfl
@[simp] theorem setDev_catalog (d : DevState) : (s.setDev d).catalog = s.catalog := rfl

@[simp] theorem tick_bus : (s.tick).bus = s.bus := rfl
@[simp] theorem tick_res : (s.tick).res = s.res := rfl
@[simp] theorem tick_poll : (s.tick).poll = s.poll := rfl
@[simp] theorem tick_arg0 : (s.tick).arg0 = s.arg0 := rfl
@[simp] theorem tick_arg1 : (s.tick).arg1 = s.arg1 := rfl
@[simp] theorem tick_arg2 : (s.tick).arg2 = s.arg2 := rfl
@[simp] theorem tick_seq : (s.tick).seq = { s.seq with step := s.seq.step + 1 } := rfl
@[simp] theorem tick_busy : (s.tick).busy = s.busy := rfl
@[simp] theorem tick_dev : (s.tick).dev = s.dev := rfl
@[simp] theorem tick_fatal : (s.tick).fatal = s.fatal := rfl
@[simp] theorem tick_err : (s.tick).err = s.err := rfl
@[simp] theorem tick_injCount : (s.tick).injCount = s.injCount := rfl
@[simp] theorem tick_ident : (s.tick).ident = s.ident := rfl
@[simp] theorem tick_rsp : (s.tick).rsp = s.rsp := rfl
@[simp] theorem tick_res0 : (s.tick).res0 = s.res0 := rfl
@[simp] theorem tick_res1 : (s.tick).res1 = s.res1 := rfl
@[simp] theorem tick_requests : (s.tick).requests = s.requests := rfl
@[simp] theorem tick_catalog : (s.tick).catalog = s.catalog := rfl

@[simp] theorem setTmp_bus (c : Word) : (s.setTmp c).bus = s.bus := rfl
@[simp] theorem setTmp_res (c : Word) : (s.setTmp c).res = s.res := rfl
@[simp] theorem setTmp_poll (c : Word) : (s.setTmp c).poll = { s.poll with tmp := c } := rfl
@[simp] theorem setTmp_arg0 (c : Word) : (s.setTmp c).arg0 = s.arg0 := rfl
@[simp] theorem setTmp_arg1 (c : Word) : (s.setTmp c).arg1 = s.arg1 := rfl
@[simp] theorem setTmp_arg2 (c : Word) : (s.setTmp c).arg2 = s.arg2 := rfl
@[simp] theorem setTmp_seq (c : Word) : (s.setTmp c).seq = s.seq := rfl
@[simp] theorem setTmp_busy (c : Word) : (s.setTmp c).busy = s.busy := rfl
@[simp] theorem setTmp_dev (c : Word) : (s.setTmp c).dev = s.dev := rfl
@[simp] theorem setTmp_fatal (c : Word) : (s.setTmp c).fatal = s.fatal := rfl
@[simp] theorem setTmp_err (c : Word) : (s.setTmp c).err = s.err := rfl
@[simp] theorem setTmp_injCount (c : Word) : (s.setTmp c).injCount = s.injCount := rfl
@[simp] theorem setTmp_ident (c : Word) : (s.setTmp c).ident = s.ident := rfl
@[simp] theorem setTmp_rsp (c : Word) : (s.setTmp c).rsp = s.rsp := rfl
@[simp] theorem setTmp_res0 (c : Word) : (s.setTmp c).res0 = s.res0 := rfl
@[simp] theorem setTmp_res1 (c : Word) : (s.setTmp c).res1 = s.res1 := rfl
@[simp] theorem setTmp_requests (c : Word) : (s.setTmp c).requests = s.requests := rfl
@[simp] theorem setTmp_catalog (c : Word) : (s.setTmp c).catalog = s.catalog := rfl

@[simp] theorem clearPolls_bus : (s.clearPolls).bus = s.bus := rfl
@[simp] theorem clearPolls_res : (s.clearPolls).res = s.res := rfl
@[simp] theorem clearPolls_poll : (s.clearPolls).poll = { s.poll with pollN := 0 } := rfl
@[simp] theorem clearPolls_arg0 : (s.clearPolls).arg0 = s.arg0 := rfl
@[simp] theorem clearPolls_arg1 : (s.clearPolls).arg1 = s.arg1 := rfl
@[simp] theorem clearPolls_arg2 : (s.clearPolls).arg2 = s.arg2 := rfl
@[simp] theorem clearPolls_seq : (s.clearPolls).seq = s.seq := rfl
@[simp] theorem clearPolls_busy : (s.clearPolls).busy = s.busy := rfl
@[simp] theorem clearPolls_dev : (s.clearPolls).dev = s.dev := rfl
@[simp] theorem clearPolls_fatal : (s.clearPolls).fatal = s.fatal := rfl
@[simp] theorem clearPolls_err : (s.clearPolls).err = s.err := rfl
@[simp] theorem clearPolls_injCount : (s.clearPolls).injCount = s.injCount := rfl
@[simp] theorem clearPolls_ident : (s.clearPolls).ident = s.ident := rfl
@[simp] theorem clearPolls_rsp : (s.clearPolls).rsp = s.rsp := rfl
@[simp] theorem clearPolls_res0 : (s.clearPolls).res0 = s.res0 := rfl
@[simp] theorem clearPolls_res1 : (s.clearPolls).res1 = s.res1 := rfl
@[simp] theorem clearPolls_requests : (s.clearPolls).requests = s.requests := rfl
@[simp] theorem clearPolls_catalog : (s.clearPolls).catalog = s.catalog := rfl

@[simp] theorem countPoll_bus : (s.countPoll).bus = s.bus := rfl
@[simp] theorem countPoll_res : (s.countPoll).res = s.res := rfl
@[simp] theorem countPoll_poll : (s.countPoll).poll = { s.poll with pollN := s.poll.pollN + 1 } := rfl
@[simp] theorem countPoll_arg0 : (s.countPoll).arg0 = s.arg0 := rfl
@[simp] theorem countPoll_arg1 : (s.countPoll).arg1 = s.arg1 := rfl
@[simp] theorem countPoll_arg2 : (s.countPoll).arg2 = s.arg2 := rfl
@[simp] theorem countPoll_seq : (s.countPoll).seq = s.seq := rfl
@[simp] theorem countPoll_busy : (s.countPoll).busy = s.busy := rfl
@[simp] theorem countPoll_dev : (s.countPoll).dev = s.dev := rfl
@[simp] theorem countPoll_fatal : (s.countPoll).fatal = s.fatal := rfl
@[simp] theorem countPoll_err : (s.countPoll).err = s.err := rfl
@[simp] theorem countPoll_injCount : (s.countPoll).injCount = s.injCount := rfl
@[simp] theorem countPoll_ident : (s.countPoll).ident = s.ident := rfl
@[simp] theorem countPoll_rsp : (s.countPoll).rsp = s.rsp := rfl
@[simp] theorem countPoll_res0 : (s.countPoll).res0 = s.res0 := rfl
@[simp] theorem countPoll_res1 : (s.countPoll).res1 = s.res1 := rfl
@[simp] theorem countPoll_requests : (s.countPoll).requests = s.requests := rfl
@[simp] theorem countPoll_catalog : (s.countPoll).catalog = s.catalog := rfl

@[simp] theorem call_bus (f : TapSession → TapSession) : (s.call f).bus = f s.bus := rfl
@[simp] theorem call_res (f : TapSession → TapSession) : (s.call f).res = s.res := rfl
@[simp] theorem call_poll (f : TapSession → TapSession) : (s.call f).poll = s.poll := rfl
@[simp] theorem call_arg0 (f : TapSession → TapSession) : (s.call f).arg0 = s.arg0 := rfl
@[simp] theorem call_arg1 (f : TapSession → TapSession) : (s.call f).arg1 = s.arg1 := rfl
@[simp] theorem call_arg2 (f : TapSession → TapSession) : (s.call f).arg2 = s.arg2 := rfl
@[simp] theorem call_seq (f : TapSession → TapSession) : (s.call f).seq = { s.seq with step := s.seq.step + 1 } := rfl
@[simp] theorem call_busy (f : TapSession → TapSession) : (s.call f).busy = s.busy := rfl
@[simp] theorem call_dev (f : TapSession → TapSession) : (s.call f).dev = s.dev := rfl
@[simp] theorem call_fatal (f : TapSession → TapSession) : (s.call f).fatal = s.fatal := rfl
@[simp] theorem call_err (f : TapSession → TapSession) : (s.call f).err = s.err := rfl
@[simp] theorem call_injCount (f : TapSession → TapSession) : (s.call f).injCount = s.injCount := rfl
@[simp] theorem call_ident (f : TapSession → TapSession) : (s.call f).ident = s.ident := rfl
@[simp] theorem call_rsp (f : TapSession → TapSession) : (s.call f).rsp = s.rsp := rfl
@[simp] theorem call_res0 (f : TapSession → TapSession) : (s.call f).res0 = s.res0 := rfl
@[simp] theorem call_res1 (f : TapSession → TapSession) : (s.call f).res1 = s.res1 := rfl
@[simp] theorem call_requests (f : TapSession → TapSession) : (s.call f).requests = s.requests := rfl
@[simp] theorem call_catalog (f : TapSession → TapSession) : (s.call f).catalog = s.catalog := rfl

@[simp] theorem begin_bus (c : Byte) : (s.begin c).bus = s.bus := rfl
@[simp] theorem begin_res (c : Byte) : (s.begin c).res = s.res := rfl
@[simp] theorem begin_poll (c : Byte) : (s.begin c).poll = s.poll := rfl
@[simp] theorem begin_arg0 (c : Byte) : (s.begin c).arg0 = s.arg0 := rfl
@[simp] theorem begin_arg1 (c : Byte) : (s.begin c).arg1 = s.arg1 := rfl
@[simp] theorem begin_arg2 (c : Byte) : (s.begin c).arg2 = s.arg2 := rfl
@[simp] theorem begin_seq (c : Byte) : (s.begin c).seq = { op := some c, step := 0 } := rfl
@[simp] theorem begin_busy (c : Byte) : (s.begin c).busy = true := rfl
@[simp] theorem begin_dev (c : Byte) : (s.begin c).dev = s.dev := rfl
@[simp] theorem begin_fatal (c : Byte) : (s.begin c).fatal = s.fatal := rfl
@[simp] theorem begin_err (c : Byte) : (s.begin c).err = s.err := rfl
@[simp] theorem begin_injCount (c : Byte) : (s.begin c).injCount = s.injCount := rfl
@[simp] theorem begin_ident (c : Byte) : (s.begin c).ident = s.ident := rfl
@[simp] theorem begin_rsp (c : Byte) : (s.begin c).rsp = s.rsp := rfl
@[simp] theorem begin_res0 (c : Byte) : (s.begin c).res0 = s.res0 := rfl
@[simp] theorem begin_res1 (c : Byte) : (s.begin c).res1 = s.res1 := rfl
@[simp] theorem begin_requests (c : Byte) : (s.begin c).requests = s.requests := rfl
@[simp] theorem begin_catalog (c : Byte) : (s.begin c).catalog = s.catalog := rfl

@[simp] theorem served_bus : (s.served).bus = s.bus := rfl
@[simp] theorem served_res : (s.served).res = s.res := rfl
@[simp] theorem served_poll : (s.served).poll = s.poll := rfl
@[simp] theorem served_arg0 : (s.served).arg0 = s.arg0 := rfl
@[simp] theorem served_arg1 : (s.served).arg1 = s.arg1 := rfl
@[simp] theorem served_arg2 : (s.served).arg2 = s.arg2 := rfl
@[simp] theorem served_seq : (s.served).seq = s.seq := rfl
@[simp] theorem served_busy : (s.served).busy = s.busy := rfl
@[simp] theorem served_dev : (s.served).dev = s.dev := rfl
@[simp] theorem served_fatal : (s.served).fatal = s.fatal := rfl
@[simp] theorem served_err : (s.served).err = s.err := rfl
@[simp] theorem served_injCount : (s.served).injCount = s.injCount := rfl
@[simp] theorem served_ident : (s.served).ident = s.ident := rfl
@[simp] theorem served_rsp : (s.served).rsp = s.rsp := rfl
@[simp] theorem served_res0 : (s.served).res0 = s.res0 := rfl
@[simp] theorem served_res1 : (s.served).res1 = s.res1 := rfl
@[simp] theorem served_requests : (s.served).requests = s.requests.tail := rfl
@[simp] theorem served_catalog : (s.served).catalog = s.catalog := rfl

@[simp] theorem respond_bus (code : BitVec 4) (r0 r1 : Word) : (respond code r0 r1 s).bus = s.bus := rfl
@[simp] theorem respond_res (code : BitVec 4) (r0 r1 : Word) : (respond code r0 r1 s).res = s.res := rfl
@[simp] theorem respond_poll (code : BitVec 4) (r0 r1 : Word) : (respond code r0 r1 s).poll = s.poll := rfl
@[simp] theorem respond_arg0 (code : BitVec 4) (r0 r1 : Word) : (respond code r0 r1 s).arg0 = s.arg0 := rfl
@[simp] theorem respond_arg1 (code : BitVec 4) (r0 r1 : Word) : (respond code r0 r1 s).arg1 = s.arg1 := rfl
@[simp] theorem respond_arg2 (code : BitVec 4) (r0 r1 : Word) : (respond code r0 r1 s).arg2 = s.arg2 := rfl
@[simp] theorem respond_seq (code : BitVec 4) (r0 r1 : Word) : (respond code r0 r1 s).seq = { op := none, step := 0 } := rfl
@[simp] theorem respond_busy (code : BitVec 4) (r0 r1 : Word) : (respond code r0 r1 s).busy = false := rfl
@[simp] theorem respond_dev (code : BitVec 4) (r0 r1 : Word) : (respond code r0 r1 s).dev = s.dev := rfl
@[simp] theorem respond_fatal (code : BitVec 4) (r0 r1 : Word) : (respond code r0 r1 s).fatal = s.fatal := rfl
@[simp] theorem respond_err (code : BitVec 4) (r0 r1 : Word) : (respond code r0 r1 s).err = s.err := rfl
@[simp] theorem respond_injCount (code : BitVec 4) (r0 r1 : Word) : (respond code r0 r1 s).injCount = s.injCount := rfl
@[simp] theorem respond_ident (code : BitVec 4) (r0 r1 : Word) : (respond code r0 r1 s).ident = s.ident := rfl
@[simp] theorem respond_rsp (code : BitVec 4) (r0 r1 : Word) : (respond code r0 r1 s).rsp = code.setWidth 32 := rfl
@[simp] theorem respond_res0 (code : BitVec 4) (r0 r1 : Word) : (respond code r0 r1 s).res0 = r0 := rfl
@[simp] theorem respond_res1 (code : BitVec 4) (r0 r1 : Word) : (respond code r0 r1 s).res1 = r1 := rfl
@[simp] theorem respond_requests (code : BitVec 4) (r0 r1 : Word) : (respond code r0 r1 s).requests = s.requests := rfl
@[simp] theorem respond_catalog (code : BitVec 4) (r0 r1 : Word) : (respond code r0 r1 s).catalog = s.catalog := rfl

@[simp] theorem refuse_bus (k : RefuseKind) : (refuse k s).bus = s.bus := rfl
@[simp] theorem refuse_res (k : RefuseKind) : (refuse k s).res = s.res := rfl
@[simp] theorem refuse_poll (k : RefuseKind) : (refuse k s).poll = s.poll := rfl
@[simp] theorem refuse_arg0 (k : RefuseKind) : (refuse k s).arg0 = s.arg0 := rfl
@[simp] theorem refuse_arg1 (k : RefuseKind) : (refuse k s).arg1 = s.arg1 := rfl
@[simp] theorem refuse_arg2 (k : RefuseKind) : (refuse k s).arg2 = s.arg2 := rfl
@[simp] theorem refuse_seq (k : RefuseKind) : (refuse k s).seq = { op := none, step := 0 } := rfl
@[simp] theorem refuse_busy (k : RefuseKind) : (refuse k s).busy = false := rfl
@[simp] theorem refuse_dev (k : RefuseKind) : (refuse k s).dev = s.dev := rfl
@[simp] theorem refuse_fatal (k : RefuseKind) : (refuse k s).fatal = s.fatal := rfl
@[simp] theorem refuse_err (k : RefuseKind) : (refuse k s).err = s.err := rfl
@[simp] theorem refuse_injCount (k : RefuseKind) : (refuse k s).injCount = s.injCount := rfl
@[simp] theorem refuse_ident (k : RefuseKind) : (refuse k s).ident = s.ident := rfl
@[simp] theorem refuse_rsp (k : RefuseKind) : (refuse k s).rsp = k.toCode.setWidth 32 := rfl
@[simp] theorem refuse_res0 (k : RefuseKind) : (refuse k s).res0 = 0#32 := rfl
@[simp] theorem refuse_res1 (k : RefuseKind) : (refuse k s).res1 = 0#32 := rfl
@[simp] theorem refuse_requests (k : RefuseKind) : (refuse k s).requests = s.requests := rfl
@[simp] theorem refuse_catalog (k : RefuseKind) : (refuse k s).catalog = s.catalog := rfl

@[simp] theorem clearLatch_bus : (clearLatch s).bus = s.bus := rfl
@[simp] theorem clearLatch_res : (clearLatch s).res = s.res := rfl
@[simp] theorem clearLatch_poll : (clearLatch s).poll = s.poll := rfl
@[simp] theorem clearLatch_arg0 : (clearLatch s).arg0 = s.arg0 := rfl
@[simp] theorem clearLatch_arg1 : (clearLatch s).arg1 = s.arg1 := rfl
@[simp] theorem clearLatch_arg2 : (clearLatch s).arg2 = s.arg2 := rfl
@[simp] theorem clearLatch_seq : (clearLatch s).seq = s.seq := rfl
@[simp] theorem clearLatch_busy : (clearLatch s).busy = s.busy := rfl
@[simp] theorem clearLatch_dev : (clearLatch s).dev = s.dev := rfl
@[simp] theorem clearLatch_fatal : (clearLatch s).fatal = false := rfl
@[simp] theorem clearLatch_err : (clearLatch s).err = { code := 0#4, op := 0#8, addr := 0#32, obs := 0#32, exp := 0#32 } := rfl
@[simp] theorem clearLatch_injCount : (clearLatch s).injCount = s.injCount := rfl
@[simp] theorem clearLatch_ident : (clearLatch s).ident = s.ident := rfl
@[simp] theorem clearLatch_rsp : (clearLatch s).rsp = s.rsp := rfl
@[simp] theorem clearLatch_res0 : (clearLatch s).res0 = s.res0 := rfl
@[simp] theorem clearLatch_res1 : (clearLatch s).res1 = s.res1 := rfl
@[simp] theorem clearLatch_requests : (clearLatch s).requests = s.requests := rfl
@[simp] theorem clearLatch_catalog : (clearLatch s).catalog = s.catalog := rfl

@[simp] theorem dropSession_bus : (dropSession s).bus = s.bus := rfl
@[simp] theorem dropSession_res : (dropSession s).res = s.res := rfl
@[simp] theorem dropSession_poll : (dropSession s).poll = s.poll := rfl
@[simp] theorem dropSession_arg0 : (dropSession s).arg0 = s.arg0 := rfl
@[simp] theorem dropSession_arg1 : (dropSession s).arg1 = s.arg1 := rfl
@[simp] theorem dropSession_arg2 : (dropSession s).arg2 = s.arg2 := rfl
@[simp] theorem dropSession_seq : (dropSession s).seq = s.seq := rfl
@[simp] theorem dropSession_busy : (dropSession s).busy = s.busy := rfl
@[simp] theorem dropSession_dev : (dropSession s).dev = .unknown := rfl
@[simp] theorem dropSession_fatal : (dropSession s).fatal = s.fatal := rfl
@[simp] theorem dropSession_err : (dropSession s).err = s.err := rfl
@[simp] theorem dropSession_injCount : (dropSession s).injCount = s.injCount := rfl
@[simp] theorem dropSession_ident : (dropSession s).ident = { s.ident with valid := false } := rfl
@[simp] theorem dropSession_rsp : (dropSession s).rsp = s.rsp := rfl
@[simp] theorem dropSession_res0 : (dropSession s).res0 = s.res0 := rfl
@[simp] theorem dropSession_res1 : (dropSession s).res1 = s.res1 := rfl
@[simp] theorem dropSession_requests : (dropSession s).requests = s.requests := rfl
@[simp] theorem dropSession_catalog : (dropSession s).catalog = s.catalog := rfl

@[simp] theorem xferFastData_bus (value : Word) : (xferFastData value s).bus = (fastScan value s.bus).2 := rfl
@[simp] theorem xferFastData_res (value : Word) : (xferFastData value s).res = (fastScan value s.bus).1 := rfl
@[simp] theorem xferFastData_poll (value : Word) : (xferFastData value s).poll = s.poll := rfl
@[simp] theorem xferFastData_arg0 (value : Word) : (xferFastData value s).arg0 = s.arg0 := rfl
@[simp] theorem xferFastData_arg1 (value : Word) : (xferFastData value s).arg1 = s.arg1 := rfl
@[simp] theorem xferFastData_arg2 (value : Word) : (xferFastData value s).arg2 = s.arg2 := rfl
@[simp] theorem xferFastData_seq (value : Word) : (xferFastData value s).seq = s.seq := rfl
@[simp] theorem xferFastData_busy (value : Word) : (xferFastData value s).busy = s.busy := rfl
@[simp] theorem xferFastData_dev (value : Word) : (xferFastData value s).dev = s.dev := rfl
@[simp] theorem xferFastData_fatal (value : Word) : (xferFastData value s).fatal = s.fatal := rfl
@[simp] theorem xferFastData_err (value : Word) : (xferFastData value s).err = s.err := rfl
@[simp] theorem xferFastData_injCount (value : Word) : (xferFastData value s).injCount = s.injCount := rfl
@[simp] theorem xferFastData_ident (value : Word) : (xferFastData value s).ident = s.ident := rfl
@[simp] theorem xferFastData_rsp (value : Word) : (xferFastData value s).rsp = s.rsp := rfl
@[simp] theorem xferFastData_res0 (value : Word) : (xferFastData value s).res0 = s.res0 := rfl
@[simp] theorem xferFastData_res1 (value : Word) : (xferFastData value s).res1 = s.res1 := rfl
@[simp] theorem xferFastData_requests (value : Word) : (xferFastData value s).requests = s.requests := rfl
@[simp] theorem xferFastData_catalog (value : Word) : (xferFastData value s).catalog = s.catalog := rfl

theorem setRst_bus (b : Bool) :
    (s.setRst b).bus =
      { s.bus.emit (.drive .rst (!b)) with pins := { s.bus.pins with rst := b } } := by
  cases b <;> rfl

end updates

/-- Everything a TAP-layer operation leaves alone: the host's registers, the device state, the latch. -/
structure HostSide where
  arg0     : Word
  arg1     : Word
  arg2     : Word
  busy     : Bool
  dev      : DevState
  fatal    : Bool
  err      : ErrLatch
  ident    : Ident
  rsp      : Word
  res0     : Word
  res1     : Word
  requests : List Request
  catalog  : List DeviceRecord

/-- The host's side of the state. -/
def State.hostSide (s : State) : HostSide :=
  ⟨s.arg0, s.arg1, s.arg2, s.busy, s.dev, s.fatal, s.err, s.ident, s.rsp, s.res0, s.res1, s.requests,
    s.catalog⟩

section hostSide
variable (s : State)
@[simp] theorem onBus_hostSide (f : TapSession → TapSession) : (s.onBus f).hostSide = s.hostSide := rfl
@[simp] theorem setRst_hostSide (b : Bool) : (s.setRst b).hostSide = s.hostSide := rfl
@[simp] theorem tick_hostSide : s.tick.hostSide = s.hostSide := rfl
@[simp] theorem setTmp_hostSide (c : Word) : (s.setTmp c).hostSide = s.hostSide := rfl
@[simp] theorem clearPolls_hostSide : s.clearPolls.hostSide = s.hostSide := rfl
@[simp] theorem countPoll_hostSide : s.countPoll.hostSide = s.hostSide := rfl
@[simp] theorem call_hostSide (f : TapSession → TapSession) : (s.call f).hostSide = s.hostSide := rfl
@[simp] theorem xferFastData_hostSide (v : Word) : (xferFastData v s).hostSide = s.hostSide := rfl
@[simp] theorem controlPoll_hostSide : (controlPoll s).hostSide = s.hostSide := rfl
@[simp] theorem statusScan_hostSide : (statusScan s).hostSide = s.hostSide := rfl
@[simp] theorem sleep_hostSide (ms : Nat) : (s.sleep ms).hostSide = s.hostSide := by
  unfold State.sleep; split <;> rfl
end hostSide

/-! ### A Sleep -/

section sleep
variable (s : State) (ms : Nat)
@[simp] theorem sleep_res : (s.sleep ms).res = s.res := by unfold State.sleep; split <;> rfl
@[simp] theorem sleep_poll : (s.sleep ms).poll = s.poll := by unfold State.sleep; split <;> rfl
@[simp] theorem sleep_arg0 : (s.sleep ms).arg0 = s.arg0 := by unfold State.sleep; split <;> rfl
@[simp] theorem sleep_arg1 : (s.sleep ms).arg1 = s.arg1 := by unfold State.sleep; split <;> rfl
@[simp] theorem sleep_arg2 : (s.sleep ms).arg2 = s.arg2 := by unfold State.sleep; split <;> rfl
@[simp] theorem sleep_seq : (s.sleep ms).seq = s.seq := by unfold State.sleep; split <;> rfl
@[simp] theorem sleep_busy : (s.sleep ms).busy = s.busy := by unfold State.sleep; split <;> rfl
@[simp] theorem sleep_dev : (s.sleep ms).dev = s.dev := by unfold State.sleep; split <;> rfl
@[simp] theorem sleep_fatal : (s.sleep ms).fatal = s.fatal := by unfold State.sleep; split <;> rfl
@[simp] theorem sleep_err : (s.sleep ms).err = s.err := by unfold State.sleep; split <;> rfl
@[simp] theorem sleep_injCount : (s.sleep ms).injCount = s.injCount := by unfold State.sleep; split <;> rfl
@[simp] theorem sleep_ident : (s.sleep ms).ident = s.ident := by unfold State.sleep; split <;> rfl
@[simp] theorem sleep_rsp : (s.sleep ms).rsp = s.rsp := by unfold State.sleep; split <;> rfl
@[simp] theorem sleep_res0 : (s.sleep ms).res0 = s.res0 := by unfold State.sleep; split <;> rfl
@[simp] theorem sleep_res1 : (s.sleep ms).res1 = s.res1 := by unfold State.sleep; split <;> rfl
@[simp] theorem sleep_requests : (s.sleep ms).requests = s.requests := by unfold State.sleep; split <;> rfl
@[simp] theorem sleep_catalog : (s.sleep ms).catalog = s.catalog := by unfold State.sleep; split <;> rfl

theorem sleep_bus (h : ms ≠ 0) : (s.sleep ms).bus = s.bus.emit (.sleep ms) := by
  simp [State.sleep, h]

end sleep

/-! ### Events beside the pulses -/

section emit
variable (b : TapSession) (e : Event)
@[simp] theorem emit_trace : (b.emit e).trace = b.trace ++ [e] := by simp [TapSession.trace, TapSession.emit]
@[simp] theorem emit_pins : (b.emit e).pins = b.pins := rfl
@[simp] theorem emit_tdoLast : (b.emit e).tdoLast = b.tdoLast := rfl
@[simp] theorem emit_tap : (b.emit e).tap = b.tap := rfl
@[simp] theorem emit_ones : (b.emit e).ones = b.ones := rfl
@[simp] theorem emit_irSel : (b.emit e).irSel = b.irSel := rfl
@[simp] theorem emit_tapSel : (b.emit e).tapSel = b.tapSel := rfl
@[simp] theorem emit_shift : (b.emit e).shift = b.shift := rfl
@[simp] theorem emit_tdoIn : (b.emit e).tdoIn = b.tdoIn := rfl
@[simp] theorem emit_samples : (b.emit e).samples = b.samples := rfl
@[simp] theorem emit_shadow : (b.emit e).shadow = b.shadow := rfl
@[simp] theorem emit_answer (k : Nat) : (b.emit e).answer k = b.answer k := rfl
end emit

/-! ### The selection at the end of SendCommand -/

section selectIr
variable (bits : Nat) (opcode : Word) (b : TapSession)
@[simp] theorem selectIr_pins : (selectIr bits opcode b).pins = b.pins := rfl
@[simp] theorem selectIr_tdoLast : (selectIr bits opcode b).tdoLast = b.tdoLast := rfl
@[simp] theorem selectIr_tap : (selectIr bits opcode b).tap = b.tap := rfl
@[simp] theorem selectIr_ones : (selectIr bits opcode b).ones = b.ones := rfl
@[simp] theorem selectIr_shift : (selectIr bits opcode b).shift = b.shift := rfl
@[simp] theorem selectIr_tdoIn : (selectIr bits opcode b).tdoIn = b.tdoIn := rfl
@[simp] theorem selectIr_samples : (selectIr bits opcode b).samples = b.samples := rfl
@[simp] theorem selectIr_trace : (selectIr bits opcode b).trace = b.trace := rfl
@[simp] theorem selectIr_irSel :
    (selectIr bits opcode b).irSel =
      some { bits := BitVec.ofNat 6 bits, opcode := Bits.lowBits bits opcode } := rfl
end selectIr

/-! ### The reset input -/

@[simp] theorem restart_res (s : State) : s.restart.res = State.reset.res := rfl
@[simp] theorem restart_poll (s : State) : s.restart.poll = State.reset.poll := rfl
@[simp] theorem restart_arg0 (s : State) : s.restart.arg0 = State.reset.arg0 := rfl
@[simp] theorem restart_arg1 (s : State) : s.restart.arg1 = State.reset.arg1 := rfl
@[simp] theorem restart_arg2 (s : State) : s.restart.arg2 = State.reset.arg2 := rfl
@[simp] theorem restart_seq (s : State) : s.restart.seq = State.reset.seq := rfl
@[simp] theorem restart_busy (s : State) : s.restart.busy = State.reset.busy := rfl
@[simp] theorem restart_dev (s : State) : s.restart.dev = State.reset.dev := rfl
@[simp] theorem restart_fatal (s : State) : s.restart.fatal = State.reset.fatal := rfl
@[simp] theorem restart_err (s : State) : s.restart.err = State.reset.err := rfl
@[simp] theorem restart_injCount (s : State) : s.restart.injCount = State.reset.injCount := rfl
@[simp] theorem restart_ident (s : State) : s.restart.ident = State.reset.ident := rfl
@[simp] theorem restart_rsp (s : State) : s.restart.rsp = State.reset.rsp := rfl
@[simp] theorem restart_res0 (s : State) : s.restart.res0 = State.reset.res0 := rfl
@[simp] theorem restart_res1 (s : State) : s.restart.res1 = State.reset.res1 := rfl
@[simp] theorem restart_requests (s : State) : s.restart.requests = s.requests := rfl
@[simp] theorem restart_catalog (s : State) : s.restart.catalog = s.catalog := rfl
@[simp] theorem restart_bus_pins (s : State) : s.restart.bus.pins = State.reset.bus.pins := rfl
@[simp] theorem restart_bus_tdoLast (s : State) : s.restart.bus.tdoLast = State.reset.bus.tdoLast := rfl
@[simp] theorem restart_bus_tap (s : State) : s.restart.bus.tap = State.reset.bus.tap := rfl
@[simp] theorem restart_bus_ones (s : State) : s.restart.bus.ones = State.reset.bus.ones := rfl
@[simp] theorem restart_bus_irSel (s : State) : s.restart.bus.irSel = State.reset.bus.irSel := rfl
@[simp] theorem restart_bus_tapSel (s : State) : s.restart.bus.tapSel = State.reset.bus.tapSel := rfl
@[simp] theorem restart_bus_shift (s : State) : s.restart.bus.shift = State.reset.bus.shift := rfl
@[simp] theorem restart_bus_tdoIn (s : State) : s.restart.bus.tdoIn = s.bus.tdoIn := rfl
@[simp] theorem restart_bus_samples (s : State) : s.restart.bus.samples = s.bus.samples := rfl
/-- The reset input appends the nine events of R281 to the trace. -/
@[simp] theorem restart_trace (s : State) : s.restart.trace = s.trace ++ State.reset.trace := by
  simp [State.restart, TapSession.trace, State.reset]

end Sys2Proof.Machine
end

