-- ==== Sys2Proof/Laws/Scan.lean ====
section
/-! SUPPORT. Scans in a row: what a session did (`Did`) composes, the timelines of Safety.lean depend on
the answers only, and what every TAP operation keeps whatever the target answers. -/

namespace Sys2Proof.Machine

/-! ### Actions -/

@[simp] theorem actionPulses_append (as bs : List Action) :
    actionPulses (as ++ bs) = actionPulses as + actionPulses bs := by
  induction as with
  | nil => simp [actionPulses]
  | cons a as ih => cases a <;> simp [actionPulses, ih, Nat.add_assoc]

theorem actionEvents_append (b : TapSession) (off : Nat) (as bs : List Action) :
    actionEvents b off (as ++ bs) = actionEvents b off as ++ actionEvents b (off + actionPulses as) bs := by
  induction as generalizing off with
  | nil => simp [actionEvents, actionPulses]
  | cons a as ih => cases a <;> simp [actionEvents, actionPulses, ih, Nat.add_assoc]

theorem actionEvents_shift {b b' : TapSession} {off off' : Nat}
    (h : ∀ k, b'.answer (off' + k) = b.answer (off + k)) (as : List Action) :
    actionEvents b' off' as = actionEvents b off as := by
  induction as generalizing off off' with
  | nil => rfl
  | cons a as ih =>
    cases a with
    | frame ps =>
      simp only [actionEvents, frameEvents_shift h]
      rw [ih (off := off + ps.length) (fun k => by
        have := h (ps.length + k); simpa [Nat.add_assoc] using this)]
    | reset r => simp only [actionEvents, ih h]
    | sleep n => simp only [actionEvents, ih h]

/-! ### What a session did -/

theorem Did.answer {b b' : TapSession} {as : List Action} (h : Did b b' as) (k : Nat) :
    b'.answer k = b.answer (actionPulses as + k) := answer_drop h.2.1 h.2.2 k

theorem Did.refl (b : TapSession) : Did b b [] := by simp [Did, actionEvents, actionPulses]

theorem Did.trans {b b1 b2 : TapSession} {as bs : List Action} (h1 : Did b b1 as) (h2 : Did b1 b2 bs) :
    Did b b2 (as ++ bs) := by
  refine ⟨?_, ?_, ?_⟩
  · rw [h2.1, h1.1, actionEvents_append, List.append_assoc, Nat.zero_add,
      actionEvents_shift (b' := b1) (b := b) (off := actionPulses as) (off' := 0) (fun k => by
        rw [Nat.zero_add]; exact h1.answer k)]
  · rw [h2.2.1, h1.2.1, List.drop_drop, actionPulses_append]
  · rw [h2.2.2, h1.2.2, actionPulses_append, Nat.add_assoc]

theorem did_runPulses (ps : List Pulse) (b : TapSession) : Did b (runPulses ps b) [.frame ps] := by
  simp [Did, actionEvents, actionPulses]

/-! ### The timelines depend on the answers only -/

theorem find?_congr' {p q : Nat → Bool} (h : ∀ j, p j = q j) (l : List Nat) : l.find? p = l.find? q := by
  rw [show p = q from funext h]

section timeline
variable {b b' : TapSession} {off off' : Nat} (h : ∀ k, b'.answer (off' + k) = b.answer (off + k))
include h

theorem readyControlPoll_shift : readyControlPoll b' off' = readyControlPoll b off := by
  unfold readyControlPoll
  exact find?_congr' (fun j => by have := h (37 * j + 32); simpa [Nat.add_assoc] using this) _

theorem readyStatusPoll_shift : readyStatusPoll b' off' = readyStatusPoll b off := by
  unfold readyStatusPoll
  exact find?_congr' (fun j => by
    have h1 := h (13 * j + 6); have h2 := h (13 * j + 5)
    simp only [← Nat.add_assoc] at h1 h2; rw [h1, h2]) _

theorem controlWord_shift (j : Nat) : controlWord b' off' j = controlWord b off j :=
  answerWord_congr (fun k => by
    have := h (37 * j + 14 + k); simpa [Nat.add_assoc] using this) 32

theorem statusByte_shift (j : Nat) : statusByte b' off' j = statusByte b off j :=
  answerWord_congr (fun k => by
    have := h (13 * j + 3 + k); simpa [Nat.add_assoc] using this) 8

theorem drainPracc_shift : drainPracc b' off' = drainPracc b off := h 52

theorem drainWord_shift : drainWord b' off' = drainWord b off :=
  answerWord_congr (fun k => by have := h (53 + k); simpa [Nat.add_assoc] using this) 32

end timeline

theorem injectionsActions_shift {b b' : TapSession} {off off' : Nat}
    (h : ∀ k, b'.answer (off' + k) = b.answer (off + k)) (ws : List Word) :
    injectionsActions b' off' ws = injectionsActions b off ws := by
  induction ws generalizing off off' with
  | nil => rfl
  | cons w ws ih =>
    simp only [injectionsActions, readyControlPoll_shift h]
    split
    · rename_i j _
      rw [ih (off := off + 144 + 37 * j) (fun k => by
        have := h (144 + 37 * j + k); simpa [Nat.add_assoc] using this)]
    · rfl

/-- A ready poll has an index below 100, shows the bit, and no poll before it does. -/
theorem readyControlPoll_some {b : TapSession} {off j : Nat} (h : readyControlPoll b off = some j) :
    j < 100 ∧ b.answer (off + 37 * j + 32) = true ∧ ∀ i < j, b.answer (off + 37 * i + 32) = false := by
  unfold readyControlPoll at h
  rw [List.find?_range_eq_some] at h
  exact ⟨List.mem_range.mp h.2.1, h.1, fun i hi => by simpa using h.2.2 i hi⟩

theorem readyControlPoll_none {b : TapSession} {off : Nat} (h : readyControlPoll b off = none) :
    ∀ i < 100, b.answer (off + 37 * i + 32) = false := by
  unfold readyControlPoll at h
  simpa using h

theorem readyStatusPoll_some {b : TapSession} {off j : Nat} (h : readyStatusPoll b off = some j) :
    j < 100 ∧ (b.answer (off + 13 * j + 6) && !b.answer (off + 13 * j + 5)) = true ∧
      ∀ i < j, (b.answer (off + 13 * i + 6) && !b.answer (off + 13 * i + 5)) = false := by
  unfold readyStatusPoll at h
  rw [List.find?_range_eq_some] at h
  refine ⟨List.mem_range.mp h.2.1, h.1, fun i hi => ?_⟩
  have := h.2.2 i hi
  simpa only [Bool.not_eq_true'] using this

theorem readyStatusPoll_none {b : TapSession} {off : Nat} (h : readyStatusPoll b off = none) :
    ∀ i < 100, (b.answer (off + 13 * i + 6) && !b.answer (off + 13 * i + 5)) = false := by
  unfold readyStatusPoll at h
  simpa using h

/-! ### A scan, and scans in a row -/

/-- What the scans of `as` did, and, from Run-Test/Idle, where they leave the shadow. -/
structure Scanned (b b' : TapSession) (as : List Action) (rst : Bool) (ir : Option IrSel)
    (sel : TapSel) : Prop where
  did  : Did b b' as
  pos  : 0 < actionPulses as
  last : b'.tdoLast = b.answer (actionPulses as - 1)
  pins : b'.pins = { tms := false, tdi := false, tck := true, rst := rst }
  idle : AtIdle b → AtIdle b' ∧ b'.irSel = ir ∧ b'.tapSel = sel

theorem Scanned.didScans {b b' : TapSession} {as rst ir sel} (h : Scanned b b' as rst ir sel) :
    DidScans b b' as rst := ⟨h.did, h.last, h.pins⟩

theorem Scanned.trans {b b1 b2 : TapSession} {as bs : List Action} {r1 r2 ir1 ir2 sel1 sel2}
    (h1 : Scanned b b1 as r1 ir1 sel1) (h2 : Scanned b1 b2 bs r2 ir2 sel2) :
    Scanned b b2 (as ++ bs) r2 ir2 sel2 where
  did := h1.did.trans h2.did
  pos := by have := h1.pos; simp; omega
  last := by
    rw [h2.last, h1.did.answer, actionPulses_append]
    have := h2.pos; congr 1; omega
  pins := h2.pins
  idle := fun h => h2.idle (h1.idle h).1

/-- Data scans after keep the selection. -/
theorem Scanned.trans_data {b b1 b2 : TapSession} {as bs : List Action} {r1 r2 ir1 sel1}
    (h1 : Scanned b b1 as r1 ir1 sel1) (h2 : Scanned b1 b2 bs r2 b1.irSel b1.tapSel) :
    Scanned b b2 (as ++ bs) r2 ir1 sel1 where
  did := h1.did.trans h2.did
  pos := by have := h1.pos; simp; omega
  last := by
    rw [h2.last, h1.did.answer, actionPulses_append]
    have := h2.pos; congr 1; omega
  pins := h2.pins
  idle := fun h => by
    obtain ⟨hi, h3, h4⟩ := h1.idle h
    obtain ⟨hi2, h5, h6⟩ := h2.idle hi
    exact ⟨hi2, h5.trans h3, h6.trans h4⟩

/-- Instruction scans that select no TAP keep the selected one. -/
theorem Scanned.trans_sel {b b1 b2 : TapSession} {as bs : List Action} {r1 r2 ir1 ir2 sel1}
    (h1 : Scanned b b1 as r1 ir1 sel1) (h2 : Scanned b1 b2 bs r2 ir2 b1.tapSel) :
    Scanned b b2 (as ++ bs) r2 ir2 sel1 where
  did := h1.did.trans h2.did
  pos := by have := h1.pos; simp; omega
  last := by
    rw [h2.last, h1.did.answer, actionPulses_append]
    have := h2.pos; congr 1; omega
  pins := h2.pins
  idle := fun h => by
    obtain ⟨hi, h3, h4⟩ := h1.idle h
    obtain ⟨hi2, h5, h6⟩ := h2.idle hi
    exact ⟨hi2, h5, h6.trans h4⟩

theorem runPulses_getLast_tdoLast (ps : List Pulse) (p : Pulse) (b : TapSession) :
    (runPulses (ps ++ [p]) b).tdoLast = b.answer ps.length := by
  rw [runPulses_append]
  simp only [runPulses_cons, runPulses_nil, bitXfer_tdoLast, runPulses_answer, Nat.add_zero]

theorem runPulses_getLast_pins (ps : List Pulse) (p : Pulse) (b : TapSession) :
    (runPulses (ps ++ [p]) b).pins = { tms := p.tms, tdi := p.tdi, tck := true, rst := b.pins.rst } := by
  rw [runPulses_append]; simp

/-- A frame that ends low and returns the shadow to where it was. -/
theorem scanned_frame {b : TapSession} {frame ps : List Pulse} (hf : frame = ps ++ [⟨false, false⟩])
    (hi : AtIdle b → AtIdle (runPulses frame b) ∧ (runPulses frame b).irSel = b.irSel ∧
      (runPulses frame b).tapSel = b.tapSel) :
    Scanned b (runPulses frame b) [.frame frame] b.pins.rst b.irSel b.tapSel where
  did := did_runPulses _ _
  pos := by simp [hf, actionPulses]
  last := by
    have : frame.length = ps.length + 1 := by simp [hf]
    simp only [actionPulses, this]; rw [hf, runPulses_getLast_tdoLast]; rfl
  pins := by rw [hf]; exact runPulses_getLast_pins _ _ _
  idle := hi

/-- The shift registers and the selection stand beside the scan. -/
theorem Scanned.congr {b b1 b2 : TapSession} {as : List Action} {rst ir sel ir' sel'}
    (h : Scanned b b1 as rst ir sel) (ht : b2.trace = b1.trace) (hi : b2.tdoIn = b1.tdoIn)
    (hn : b2.samples = b1.samples) (hl : b2.tdoLast = b1.tdoLast) (hp : b2.pins = b1.pins)
    (hs : AtIdle b1 → b1.irSel = ir → b1.tapSel = sel →
      AtIdle b2 ∧ b2.irSel = ir' ∧ b2.tapSel = sel') :
    Scanned b b2 as rst ir' sel' where
  did := ⟨ht.trans h.did.1, hi.trans h.did.2.1, hn.trans h.did.2.2⟩
  pos := h.pos
  last := hl.trans h.last
  pins := hp.trans h.pins
  idle := fun hb => by
    obtain ⟨h1, h2, h3⟩ := h.idle hb
    exact hs h1 h2 h3

theorem Scanned.setShift {b b1 : TapSession} {as : List Action} {rst ir sel}
    (h : Scanned b b1 as rst ir sel) (regs : ShiftRegs) : Scanned b (b1.setShift regs) as rst ir sel :=
  h.congr rfl rfl rfl rfl rfl fun h1 h2 h3 => ⟨h1, h2, h3⟩

theorem irFrame_split (bits : Nat) (opcode : Word) :
    irFrame bits opcode =
      ([⟨true, false⟩, ⟨true, false⟩, ⟨false, false⟩, ⟨false, false⟩] ++ dataPulses bits opcode ++
        [⟨true, false⟩]) ++ [⟨false, false⟩] := by simp [irFrame]

theorem drFrame_split (bits : Nat) (value : Word) :
    drFrame bits value =
      ([⟨true, false⟩, ⟨false, false⟩, ⟨false, false⟩] ++ dataPulses bits value ++ [⟨true, false⟩]) ++
        [⟨false, false⟩] := by simp [drFrame]

theorem fdFrame_split (value : Word) :
    fdFrame value =
      ([⟨true, false⟩, ⟨false, false⟩, ⟨false, false⟩, ⟨false, false⟩] ++ dataPulses 32 value ++
        [⟨true, false⟩]) ++ [⟨false, false⟩] := by simp [fdFrame]

theorem shadow_fields {b b' : TapSession} (h : b'.shadow = b.shadow) :
    b'.tap = b.tap ∧ b'.ones = b.ones ∧ b'.irSel = b.irSel ∧ b'.tapSel = b.tapSel :=
  ⟨congrArg Shadow.tap h, congrArg Shadow.ones h, congrArg Shadow.irSel h, congrArg Shadow.tapSel h⟩

theorem idle_of_shadow {b b' : TapSession} (h : b'.shadow = b.shadow) (hb : AtIdle b) :
    AtIdle b' ∧ b'.irSel = b.irSel ∧ b'.tapSel = b.tapSel := by
  obtain ⟨h1, h2, h3, h4⟩ := shadow_fields h
  exact ⟨⟨h1.trans hb.1, h2.trans hb.2⟩, h3, h4⟩

/-- One data scan (R135). -/
theorem scanned_xferData {bits : Nat} (hb : bits ≠ 0) (value : Word) (b : TapSession) :
    Scanned b (xferData bits value b).2 [.frame (drFrame bits value)] b.pins.rst b.irSel b.tapSel := by
  have h : Scanned b (runPulses (drFrame bits value) b) [.frame (drFrame bits value)] b.pins.rst
      b.irSel b.tapSel := by
    have hs := drFrame_shadow hb value b
    exact scanned_frame (drFrame_split _ _) fun hi => idle_of_shadow (hs hi) hi
  rw [xferData_eq hb]
  exact h.setShift _

/-- The selected TAP after an IR scan (R29). -/
def selAfter (bits : Nat) (opcode : Word) (sel : TapSel) : TapSel :=
  if bits = 5 ∧ Bits.lowBits 5 opcode = 0x04#32 then .mtap
  else if bits = 5 ∧ Bits.lowBits 5 opcode = 0x05#32 then .etap
  else sel

theorem selectIr_tapSel (bits : Nat) (opcode : Word) (b : TapSession) :
    (selectIr bits opcode b).tapSel = selAfter bits opcode b.tapSel := rfl

/-- One instruction scan (R133). -/
theorem scanned_sendCommand {bits : Nat} (hb : bits ≠ 0) (opcode : Word) (b : TapSession) :
    Scanned b (sendCommand bits opcode b) [.frame (irFrame bits opcode)] b.pins.rst
      (some { bits := BitVec.ofNat 6 bits, opcode := Bits.lowBits bits opcode })
      (selAfter bits opcode b.tapSel) := by
  rw [sendCommand_eq hb]
  have h : Scanned b (runPulses (irFrame bits opcode) b) [.frame (irFrame bits opcode)] b.pins.rst
      b.irSel b.tapSel := by
    have hs := irFrame_shadow hb opcode b
    exact scanned_frame (irFrame_split _ _) fun hi => idle_of_shadow (hs hi) hi
  refine h.congr rfl rfl rfl rfl rfl fun h1 _ h3 => ⟨h1, rfl, ?_⟩
  rw [selectIr_tapSel, setShift_tapSel, h3]

/-- One fast-data scan (R138). -/
theorem scanned_fastScan (value : Word) (b : TapSession) :
    Scanned b (fastScan value b).2 [.frame (fdFrame value)] b.pins.rst b.irSel b.tapSel := by
  have h : Scanned b (runPulses (fdFrame value) b) [.frame (fdFrame value)] b.pins.rst
      b.irSel b.tapSel := by
    have hs := fdFrame_shadow value b
    exact scanned_frame (fdFrame_split _) fun hi => idle_of_shadow (hs hi) hi
  generalize hx : fastScan value b = x
  have := (fastScan_eq value b).symm.trans hx
  subst this
  exact h.setShift _

end Sys2Proof.Machine
end

