-- ==== Sys2Proof/Laws/Inject.lean ====
section
/-! SUPPORT. The instruction injector (R160 to R164): once for all what one injection and a list of
injections do, serviced and not. -/

namespace Sys2Proof.Machine

theorem xferData32_fst (value : Word) (b : TapSession) :
    (xferData 32 value b).1 = b.answerWord 3 32 := by
  rw [xferData_eq (by decide)]

theorem xferData8_fst (value : Word) (b : TapSession) :
    (xferData 8 value b).1 = b.answerWord 3 8 := by
  rw [xferData_eq (by decide)]

/-- The session after one data scan of 32 bits. -/
def dataScan32 (value : Word) (b : TapSession) : TapSession := (xferData 32 value b).2

theorem scanned_dataScan32 (value : Word) (b : TapSession) :
    Scanned b (dataScan32 value b) [.frame (drFrame 32 value)] b.pins.rst b.irSel b.tapSel :=
  scanned_xferData (by decide) value b

theorem controlPoll_eq (s : State) :
    controlPoll s =
      { s with
        bus := dataScan32 0x0004C000#32 s.bus
        poll := { s.poll with pollN := s.poll.pollN + 1, tmp := s.bus.answerWord 3 32 } } := by
  rw [← xferData32_fst 0x0004C000#32]; rfl

theorem controlReady_answerWord (b : TapSession) (off : Nat) :
    controlReady (b.answerWord off 32) = b.answer (off + 18) := by
  rw [controlReady, getLsbD_answerWord _ _ _ _ (by decide)]; rfl

theorem answer_dataScan32 (value : Word) (b : TapSession) (k : Nat) :
    (dataScan32 value b).answer k = b.answer (37 + k) := by
  rw [(scanned_dataScan32 value b).did.answer]; simp [actionPulses]

theorem sleep_praccPollDelay (s : State) : s.sleep Param.praccPollDelayMs = s := rfl

/-- The ready loop of R160 that sees the bit on poll `j`. -/
theorem controlPolls_ready (n : Nat) (s : State) (j : Nat) (hj : j < n)
    (hr : s.bus.answer (37 * j + 21) = true) (hn : ∀ i < j, s.bus.answer (37 * i + 21) = false) :
    ∃ b, controlPolls n s =
        (true, { s with
          bus := b
          poll := { s.poll with
            pollN := s.poll.pollN + (j + 1), tmp := s.bus.answerWord (37 * j + 3) 32 } }) ∧
      Scanned s.bus b (List.replicate (j + 1) (.frame (drFrame 32 0x0004C000#32))) s.bus.pins.rst
        s.bus.irSel s.bus.tapSel := by
  induction j generalizing n s with
  | zero =>
    obtain ⟨n, rfl⟩ := Nat.exists_eq_succ_of_ne_zero (by omega : n ≠ 0)
    refine ⟨dataScan32 0x0004C000#32 s.bus, ?_, scanned_dataScan32 _ _⟩
    simp only [controlPolls, controlPoll_eq, controlReady_answerWord]
    rw [if_pos hr]
  | succ j ih =>
    obtain ⟨n, rfl⟩ := Nat.exists_eq_succ_of_ne_zero (by omega : n ≠ 0)
    have h0 : ¬ s.bus.answer (3 + 18) = true := by simpa using hn 0 (by omega)
    simp only [controlPolls, controlPoll_eq, controlReady_answerWord, if_neg h0]
    rw [if_neg (by omega : ¬ n = 0), sleep_praccPollDelay]
    obtain ⟨b, he, hb⟩ := ih n
      { s with
        bus := dataScan32 0x0004C000#32 s.bus
        poll := { s.poll with pollN := s.poll.pollN + 1, tmp := s.bus.answerWord 3 32 } } (by omega)
      (by rw [answer_dataScan32]; rw [← hr]; congr 1; omega)
      (fun i hi => by rw [answer_dataScan32, ← hn (i + 1) (by omega)]; congr 1; omega)
    refine ⟨b, ?_, ?_⟩
    · rw [he]
      have : (dataScan32 0x0004C000#32 s.bus).answerWord (37 * j + 3) 32 =
          s.bus.answerWord (37 * (j + 1) + 3) 32 :=
        answerWord_congr (fun k => by rw [answer_dataScan32]; congr 1; omega) 32
      simp only [this]
      rw [show s.poll.pollN + 1 + (j + 1) = s.poll.pollN + (j + 1 + 1) by omega]
    · rw [List.replicate_succ]
      have h1 := (scanned_dataScan32 0x0004C000#32 s.bus).trans_data (bs :=
        List.replicate (j + 1) (.frame (drFrame 32 0x0004C000#32))) (b2 := b) hb
      rw [(scanned_dataScan32 0x0004C000#32 s.bus).pins] at h1
      exact h1

/-- The ready loop of R160 that never sees the bit. -/
theorem controlPolls_timeout (n : Nat) (hn : n ≠ 0) (s : State)
    (hr : ∀ i < n, s.bus.answer (37 * i + 21) = false) :
    ∃ b, controlPolls n s =
        (false, { s with
          bus := b
          poll := { s.poll with
            pollN := s.poll.pollN + n, tmp := s.bus.answerWord (37 * (n - 1) + 3) 32 } }) ∧
      Scanned s.bus b (List.replicate n (.frame (drFrame 32 0x0004C000#32))) s.bus.pins.rst
        s.bus.irSel s.bus.tapSel := by
  obtain ⟨n, rfl⟩ := Nat.exists_eq_succ_of_ne_zero hn
  clear hn
  induction n generalizing s with
  | zero =>
    refine ⟨dataScan32 0x0004C000#32 s.bus, ?_, scanned_dataScan32 _ _⟩
    have h0 : ¬ s.bus.answer (3 + 18) = true := by simpa using hr 0 (by omega)
    simp only [controlPolls, controlPoll_eq, controlReady_answerWord, if_neg h0]
    rfl
  | succ n ih =>
    have h0 : ¬ s.bus.answer (3 + 18) = true := by simpa using hr 0 (by omega)
    rw [controlPolls]
    simp only [controlPoll_eq, controlReady_answerWord, if_neg h0]
    rw [if_neg (by omega : ¬ n + 1 = 0), sleep_praccPollDelay]
    obtain ⟨b, he, hb⟩ := ih
      { s with
        bus := dataScan32 0x0004C000#32 s.bus
        poll := { s.poll with pollN := s.poll.pollN + 1, tmp := s.bus.answerWord 3 32 } }
      (fun i hi => by rw [answer_dataScan32, ← hr (i + 1) (by omega)]; congr 1; omega)
    refine ⟨b, ?_, ?_⟩
    · rw [he]
      have : (dataScan32 0x0004C000#32 s.bus).answerWord (37 * (n + 1 - 1) + 3) 32 =
          s.bus.answerWord (37 * (n + 1 + 1 - 1) + 3) 32 :=
        answerWord_congr (fun k => by rw [answer_dataScan32]; congr 1; omega) 32
      simp only [Nat.succ_eq_add_one, this]
      rw [show s.poll.pollN + 1 + (n + 1) = s.poll.pollN + (n + 1 + 1) by omega]
    · rw [List.replicate_succ]
      have h1 := (scanned_dataScan32 0x0004C000#32 s.bus).trans_data (bs :=
        List.replicate (n + 1) (.frame (drFrame 32 0x0004C000#32))) (b2 := b) hb
      rw [(scanned_dataScan32 0x0004C000#32 s.bus).pins] at h1
      exact h1

/-- An IR scan of five bits that selects no TAP (R28, R29). -/
theorem scanned_ir5 (opcode : Word) (b : TapSession) (h : Bits.lowBits 5 opcode = opcode)
    (h4 : opcode ≠ 0x04#32) (h5 : opcode ≠ 0x05#32) :
    Scanned b (sendCommand 5 opcode b) [.frame (irFrame 5 opcode)] b.pins.rst (ir5 opcode) b.tapSel := by
  have := scanned_sendCommand (bits := 5) (by decide) opcode b
  simp only [h, selAfter, h4, h5, and_false, if_false] at this
  exact this

/-- An IR scan of five bits that selects a TAP (R29). -/
theorem scanned_ir5_mtap (b : TapSession) :
    Scanned b (sendCommand 5 0x04#32 b) [.frame (irFrame 5 0x04#32)] b.pins.rst (ir5 0x04#32) .mtap :=
  scanned_sendCommand (bits := 5) (by decide) 0x04#32 b

theorem scanned_ir5_etap (b : TapSession) :
    Scanned b (sendCommand 5 0x05#32 b) [.frame (irFrame 5 0x05#32)] b.pins.rst (ir5 0x05#32) .etap :=
  scanned_sendCommand (bits := 5) (by decide) 0x05#32 b

/-- The target-reset level a scan leaves is the one it found. -/
theorem Scanned.rst_eq {b b' : TapSession} {as rst ir sel} (h : Scanned b b' as rst ir sel) :
    b'.pins.rst = rst := by rw [h.pins]

theorem scanned_serviceInstruction (word : Word) (b : TapSession) :
    Scanned b (serviceInstruction word b)
      [.frame (irFrame 5 0x09#32), .frame (drFrame 32 word), .frame (irFrame 5 0x0A#32),
        .frame (drFrame 32 0x0000C000#32)] b.pins.rst (ir5 0x0A#32) b.tapSel := by
  have h1 := scanned_ir5 0x09#32 b (by decide) (by decide) (by decide)
  have h2 := scanned_dataScan32 word (sendCommand 5 0x09#32 b)
  have h3 := scanned_ir5 0x0A#32 (dataScan32 word (sendCommand 5 0x09#32 b)) (by decide) (by decide)
    (by decide)
  have h4 := scanned_dataScan32 0x0000C000#32
    (sendCommand 5 0x0A#32 (dataScan32 word (sendCommand 5 0x09#32 b)))
  rw [h3.rst_eq, h2.rst_eq, h1.rst_eq] at h4
  have h := ((h1.trans_data h2).trans_sel h3).trans_data h4
  exact h

/-- XferInstruction (R160) when the ready bit is seen on poll `j`. -/
theorem xferInstruction_serviced (word : Word) (s : State) (j : Nat)
    (hj : readyControlPoll s.bus 0 = some j) :
    ∃ b, xferInstruction word s =
        { s with
          bus := b
          poll := { s.poll with pollN := j + 1, tmp := controlWord s.bus 0 j }
          res := { value := controlWord s.bus 0 j, pracc := true }
          injCount := s.injCount + 1#32 } ∧
      Scanned s.bus b (injectionActions word j) s.bus.pins.rst (ir5 0x0A#32) s.bus.tapSel := by
  obtain ⟨hlt, hr, hn⟩ := readyControlPoll_some hj
  have h1 := scanned_ir5 0x0A#32 s.bus (by decide) (by decide) (by decide)
  have ha : ∀ k, (sendCommand 5 0x0A#32 s.bus).answer k = s.bus.answer (11 + k) := fun k => by
    rw [h1.did.answer]; simp [actionPulses]
  obtain ⟨b, he, hb⟩ := controlPolls_ready 100 ((s.onBus (sendCommand 5 0x0A#32)).clearPolls) j hlt
    (by simp only [clearPolls_bus, onBus_bus, ha, ← hr]; congr 1; omega)
    (fun i hi => by simp only [clearPolls_bus, onBus_bus, ha, ← hn i hi]; congr 1; omega)
  refine ⟨serviceInstruction word b, ?_, ?_⟩
  · have hw : (sendCommand 5 0x0A#32 s.bus).answerWord (37 * j + 3) 32 = controlWord s.bus 0 j :=
      answerWord_congr (fun k => by rw [ha]; congr 1; omega) 32
    rw [xferInstruction]
    simp only [show Param.praccPollMax = 100 from rfl, show Param.irBits = 5 from rfl,
      show Param.etapControl = 0x0A#32 from rfl, he, if_true]
    simp only [State.onBus, State.clearPolls, hw, Nat.zero_add]
  · have h2 := h1.trans_data hb
    have h3 := scanned_serviceInstruction word b
    rw [h2.rst_eq] at h3
    have h4 := h2.trans_sel h3
    simp only [clearPolls_bus, onBus_bus, h1.rst_eq] at h4
    rw [injectionActions]
    exact h4

/-- XferInstruction (R160) when the ready bit is never seen. -/
theorem xferInstruction_timeout (word : Word) (s : State)
    (hj : readyControlPoll s.bus 0 = none) :
    ∃ b, xferInstruction word s =
        { s with
          bus := b
          poll := { s.poll with pollN := 100, tmp := controlWord s.bus 0 99 }
          res := { value := controlWord s.bus 0 99, pracc := false } } ∧
      Scanned s.bus b injectionTimeout s.bus.pins.rst (ir5 0x0A#32) s.bus.tapSel := by
  have hn := readyControlPoll_none hj
  have h1 := scanned_ir5 0x0A#32 s.bus (by decide) (by decide) (by decide)
  have ha : ∀ k, (sendCommand 5 0x0A#32 s.bus).answer k = s.bus.answer (11 + k) := fun k => by
    rw [h1.did.answer]; simp [actionPulses]
  obtain ⟨b, he, hb⟩ := controlPolls_timeout 100 (by decide)
    ((s.onBus (sendCommand 5 0x0A#32)).clearPolls)
    (fun i hi => by simp only [clearPolls_bus, onBus_bus, ha, ← hn i hi]; congr 1; omega)
  refine ⟨b, ?_, ?_⟩
  · have hw : (sendCommand 5 0x0A#32 s.bus).answerWord (37 * (100 - 1) + 3) 32 = controlWord s.bus 0 99 :=
      answerWord_congr (fun k => by rw [ha]; congr 1; omega) 32
    rw [xferInstruction]
    simp only [show Param.praccPollMax = 100 from rfl, show Param.irBits = 5 from rfl,
      show Param.etapControl = 0x0A#32 from rfl, he]
    simp only [Bool.false_eq_true, if_false, State.onBus, State.clearPolls, hw, Nat.zero_add]
  · have h2 := h1.trans_data hb
    simp only [clearPolls_bus, onBus_bus, h1.rst_eq] at h2
    exact h2

/-- Inject (R162), serviced on poll `j`. -/
theorem inject_serviced (word : Word) (s : State) (j : Nat) (hj : readyControlPoll s.bus 0 = some j) :
    ∃ b, inject word s = .done ()
        { s with
          bus := b
          poll := { s.poll with pollN := j + 1, tmp := controlWord s.bus 0 j }
          res := { value := controlWord s.bus 0 j, pracc := true }
          injCount := s.injCount + 1#32
          seq := { s.seq with step := s.seq.step + 1 } } ∧
      Scanned s.bus b (injectionActions word j) s.bus.pins.rst (ir5 0x0A#32) s.bus.tapSel := by
  obtain ⟨b, he, hb⟩ := xferInstruction_serviced word s j hj
  refine ⟨b, ?_, hb⟩
  simp only [inject, he, if_true]
  rfl

/-- Inject (R162), not serviced: BusTimeout. -/
theorem inject_timeout (word : Word) (s : State) (hj : readyControlPoll s.bus 0 = none) :
    ∃ b, inject word s = .raised ⟨.busTimeout, word, controlWord s.bus 0 99, 0x0004C000#32⟩
        { s with
          bus := b
          poll := { s.poll with pollN := 100, tmp := controlWord s.bus 0 99 }
          res := { value := controlWord s.bus 0 99, pracc := false } } ∧
      Scanned s.bus b injectionTimeout s.bus.pins.rst (ir5 0x0A#32) s.bus.tapSel := by
  obtain ⟨b, he, hb⟩ := xferInstruction_timeout word s hj
  refine ⟨b, ?_, hb⟩
  simp only [inject, he, Bool.false_eq_true, if_false]
  rfl

theorem actionPulses_replicate (n : Nat) (ps : List Pulse) :
    actionPulses (List.replicate n (.frame ps)) = n * ps.length := by
  induction n with
  | zero => simp [actionPulses]
  | succ n ih => rw [List.replicate_succ, actionPulses, ih, Nat.succ_mul, Nat.add_comm]

theorem actionPulses_injection (word : Word) (j : Nat) :
    actionPulses (injectionActions word j) = 144 + 37 * j := by
  rw [injectionActions]
  simp only [List.cons_append, actionPulses, actionPulses_append, actionPulses_replicate, irFrame_length,
    drFrame_length]
  omega

theorem actionPulses_injectionTimeout : actionPulses injectionTimeout = 3711 := by
  rw [injectionTimeout]
  simp only [actionPulses, actionPulses_replicate, irFrame_length, drFrame_length]

theorem injectionEnd_shift {b b' : TapSession} {off off' n : Nat}
    (h : ∀ k, b'.answer (off' + k) = b.answer (off + k)) (ho : off = off' + n) :
    injectionEnd b off = (injectionEnd b' off').map (· + n) := by
  rw [injectionEnd, injectionEnd, readyControlPoll_shift h]
  cases readyControlPoll b off with
  | none => rfl
  | some j => simp; omega

theorem injectionsEnd_shift {b b' : TapSession} {n : Nat}
    (h : ∀ k, b'.answer k = b.answer (n + k)) (m off : Nat) :
    injectionsEnd b m (n + off) = (injectionsEnd b' m off).map (n + ·) := by
  induction m generalizing off with
  | zero => simp [injectionsEnd]
  | succ m ih =>
    have h' : ∀ k, b'.answer (off + k) = b.answer (n + off + k) := fun k => by
      rw [h, Nat.add_assoc]
    simp only [injectionsEnd, injectionEnd, readyControlPoll_shift h']
    cases readyControlPoll b (n + off) with
    | none => rfl
    | some j =>
      simp only [Option.map_some, Option.bind_some]
      rw [← ih]; congr 1; omega

theorem injectionsEnd_from {b b' : TapSession} {n : Nat}
    (h : ∀ k, b'.answer k = b.answer (n + k)) (m : Nat) :
    injectionsEnd b m n = (injectionsEnd b' m 0).map (n + ·) := injectionsEnd_shift h m 0

theorem injectionsEnd_some_from {b b' : TapSession} {m n e : Nat}
    (h : ∀ k, b'.answer k = b.answer (n + k)) (he : injectionsEnd b m n = some e) :
    ∃ e', injectionsEnd b' m 0 = some e' ∧ n + e' = e := by
  rw [injectionsEnd_from h] at he
  exact Option.map_eq_some_iff.mp he

/-- A list of injections is serviced word by word. -/
theorem injectionsEnd_succ {b : TapSession} {m off e : Nat} (h : injectionsEnd b (m + 1) off = some e) :
    ∃ j, readyControlPoll b off = some j ∧ injectionsEnd b m (off + 144 + 37 * j) = some e := by
  rw [injectionsEnd, injectionEnd] at h
  cases hj : readyControlPoll b off with
  | none => rw [hj] at h; simp at h
  | some j => rw [hj] at h; exact ⟨j, rfl, by simpa using h⟩

/-- The words of the list all serviced (R162, R164). -/
theorem injectWords_serviced (ws : List Word) (hw : ws ≠ []) (s : State) (e : Nat)
    (he : injectionsEnd s.bus ws.length 0 = some e) :
    ∃ b poll value, injectWords ws s = .done ()
        { s with
          bus := b
          poll := poll
          res := { value := value, pracc := true }
          injCount := s.injCount + BitVec.ofNat 32 ws.length
          seq := { s.seq with step := s.seq.step + ws.length } } ∧
      poll.attempt = s.poll.attempt ∧
      actionPulses (injectionsActions s.bus 0 ws) = e ∧
      Scanned s.bus b (injectionsActions s.bus 0 ws) s.bus.pins.rst (ir5 0x0A#32) s.bus.tapSel := by
  induction ws generalizing s e with
  | nil => exact absurd rfl hw
  | cons w ws ih =>
    obtain ⟨j, hj, hrest⟩ := injectionsEnd_succ he
    obtain ⟨b1, he1, hb1⟩ := inject_serviced w s j hj
    have hacts : injectionsActions s.bus 0 (w :: ws) =
        injectionActions w j ++ injectionsActions s.bus (144 + 37 * j) ws := by
      simp only [injectionsActions, hj, Nat.zero_add]
    have ha : ∀ k, b1.answer k = s.bus.answer (144 + 37 * j + k) := fun k => by
      rw [hb1.did.answer, actionPulses_injection]
    rw [show 0 + 144 + 37 * j = 144 + 37 * j + 0 by omega, injectionsEnd_shift ha] at hrest
    rw [injectWords, he1, hacts]
    simp only [Ran.andThen]
    by_cases hws : ws = []
    · subst hws
      simp only [List.length_nil, injectionsEnd, Option.map_some, Option.some.injEq] at hrest
      refine ⟨b1, _, _, rfl, rfl, ?_, ?_⟩
      · rw [injectionsActions, List.append_nil, actionPulses_injection]; omega
      · rw [injectionsActions, List.append_nil]; exact hb1
    · cases hm : injectionsEnd b1 ws.length 0 with
      | none => rw [hm] at hrest; simp at hrest
      | some e' =>
        rw [hm] at hrest
        obtain ⟨b2, poll, value, he2, hat, hp, hb2⟩ := ih hws
          { s with
            bus := b1
            poll := { s.poll with pollN := j + 1, tmp := controlWord s.bus 0 j }
            res := { value := controlWord s.bus 0 j, pracc := true }
            injCount := s.injCount + 1#32
            seq := { s.seq with step := s.seq.step + 1 } } e' hm
        have hsh : injectionsActions b1 0 ws = injectionsActions s.bus (144 + 37 * j) ws :=
          injectionsActions_shift (fun k => by rw [Nat.zero_add]; exact ha k) ws
        simp only [hsh] at hp hb2
        refine ⟨b2, poll, value, ?_, hat, ?_, ?_⟩
        · rw [he2]
          simp only [List.length_cons]
          have h1 : s.injCount + 1#32 + BitVec.ofNat 32 ws.length =
              s.injCount + BitVec.ofNat 32 (ws.length + 1) := by
            rw [BitVec.add_assoc, BitVec.ofNat_add, BitVec.add_comm 1#32]
          rw [h1, Nat.add_assoc, Nat.add_comm 1]
        · rw [actionPulses_append, actionPulses_injection, hp]
          simpa using hrest
        · have := hb1.trans_sel hb2
          rw [hb1.rst_eq] at this
          exact this

theorem injectWords_append (ws vs : List Word) (s : State) :
    injectWords (ws ++ vs) s = (injectWords ws s).andThen fun _ s => injectWords vs s := by
  induction ws generalizing s with
  | nil => rfl
  | cons w ws ih =>
    rw [List.cons_append, injectWords, injectWords]
    cases inject w s with
    | done a u => exact ih u
    | raised e u => rfl

/-- After a list of injections `S.res` is that of the last: its last Control word and the ready bit (R160,
R161). -/
theorem injectWords_last (ws : List Word) (hws : ws ≠ []) (w : Word) (s t : State) (e j : Nat)
    (he : injectionsEnd s.bus ws.length 0 = some e) (hj : readyControlPoll s.bus e = some j)
    (h : injectWords (ws ++ [w]) s = .done () t) :
    t.res = { value := controlWord s.bus e j, pracc := true } := by
  obtain ⟨b, poll, value, h1, _, hp, hb⟩ := injectWords_serviced ws hws s e he
  have ha : ∀ k, b.answer (0 + k) = s.bus.answer (e + k) := fun k => by
    rw [hb.did.answer, hp, Nat.zero_add]
  rw [injectWords_append, h1] at h
  obtain ⟨b2, h2, _⟩ := inject_serviced w
    { s with
      bus := b
      poll := poll
      res := { value := value, pracc := true }
      injCount := s.injCount + BitVec.ofNat 32 ws.length
      seq := { s.seq with step := s.seq.step + ws.length } } j
    ((readyControlPoll_shift ha).trans hj)
  simp only [Ran.andThen, injectWords, h2, Ran.done.injEq, true_and] at h
  rw [← h, controlWord_shift ha]

/-- The first `k` words serviced and the next one not: BusTimeout, and no later word is injected (R162). -/
theorem injectWords_timeout (ws : List Word) (k : Nat) (w : Word) (hk : ws[k]? = some w) (s : State)
    (e : Nat) (he : injectionsEnd s.bus k 0 = some e) (hn : readyControlPoll s.bus e = none) :
    ∃ b poll step, injectWords ws s =
        .raised ⟨.busTimeout, w, controlWord s.bus e 99, 0x0004C000#32⟩
        { s with
          bus := b
          poll := poll
          res := { value := controlWord s.bus e 99, pracc := false }
          injCount := s.injCount + BitVec.ofNat 32 k
          seq := { s.seq with step := step } } ∧
      poll.attempt = s.poll.attempt ∧
      Scanned s.bus b (injectionsActions s.bus 0 (ws.take k) ++ injectionTimeout) s.bus.pins.rst
        (ir5 0x0A#32) s.bus.tapSel := by
  induction k generalizing ws s e with
  | zero =>
    cases ws with
    | nil => simp at hk
    | cons w' ws =>
      simp only [List.getElem?_cons_zero, Option.some.injEq] at hk
      subst hk
      simp only [injectionsEnd, Option.some.injEq] at he
      subst he
      obtain ⟨b, he, hb⟩ := inject_timeout w' s hn
      refine ⟨b, { s.poll with pollN := 100, tmp := controlWord s.bus 0 99 }, s.seq.step, ?_, rfl, ?_⟩
      · rw [injectWords, he]
        simp only [Ran.andThen, BitVec.add_zero]
      · simpa [injectionsActions] using hb
  | succ k ih =>
    cases ws with
    | nil => simp at hk
    | cons w' ws =>
      simp only [List.getElem?_cons_succ] at hk
      obtain ⟨j, hj, hrest⟩ := injectionsEnd_succ he
      obtain ⟨b1, he1, hb1⟩ := inject_serviced w' s j hj
      have ha : ∀ i, b1.answer i = s.bus.answer (144 + 37 * j + i) := fun i => by
        rw [hb1.did.answer, actionPulses_injection]
      rw [show 0 + 144 + 37 * j = 144 + 37 * j + 0 by omega, injectionsEnd_shift ha] at hrest
      cases hm : injectionsEnd b1 k 0 with
      | none => rw [hm] at hrest; simp at hrest
      | some e' =>
        rw [hm] at hrest
        simp only [Option.map_some, Option.some.injEq] at hrest
        have hae : ∀ i, b1.answer (e' + i) = s.bus.answer (e + i) := fun i => by
          rw [ha, ← hrest, ← Nat.add_assoc]
        obtain ⟨b2, poll, step, he2, hat, hb2⟩ := ih ws hk
          { s with
            bus := b1
            poll := { s.poll with pollN := j + 1, tmp := controlWord s.bus 0 j }
            res := { value := controlWord s.bus 0 j, pracc := true }
            injCount := s.injCount + 1#32
            seq := { s.seq with step := s.seq.step + 1 } } e' hm
          (by rw [readyControlPoll_shift hae]; exact hn)
        have hsh : injectionsActions b1 0 (ws.take k) =
            injectionsActions s.bus (144 + 37 * j) (ws.take k) :=
          injectionsActions_shift (fun i => by rw [Nat.zero_add]; exact ha i) _
        have hacts : injectionsActions s.bus 0 ((w' :: ws).take (k + 1)) =
            injectionActions w' j ++ injectionsActions s.bus (144 + 37 * j) (ws.take k) := by
          simp only [List.take_succ_cons, injectionsActions, hj, Nat.zero_add]
        refine ⟨b2, poll, step, ?_, hat, ?_⟩
        · rw [injectWords, he1]
          simp only [Ran.andThen, he2, controlWord_shift hae]
          have h1 : s.injCount + 1#32 + BitVec.ofNat 32 k = s.injCount + BitVec.ofNat 32 (k + 1) := by
            rw [BitVec.add_assoc, BitVec.ofNat_add, BitVec.add_comm 1#32]
          rw [h1]
        · have := hb1.trans_sel hb2
          simp only [hsh, hb1.rst_eq] at this
          rw [hacts, List.append_assoc]
          exact this

end Sys2Proof.Machine
end

