-- ==== Sys2Proof/Laws/Device.lean ====
section
/-! SUPPORT. The device-control procedures (R172 to R183, R210, R221): once for all what each does. -/

namespace Sys2Proof.Machine

/-- A state whose wire side has moved on: session, poll registers, result register, injected count and
the step of the sequencer; all else as it was. -/
def State.wired (s : State) (b : TapSession) (poll : PollRegs) (res : FastData) (count : Word)
    (step : Nat) : State :=
  { s with bus := b, poll := poll, res := res, injCount := count, seq := { s.seq with step := step } }

section wired
variable (s : State) (b : TapSession) (poll : PollRegs) (res : FastData) (count : Word) (step : Nat)
@[simp] theorem wired_bus : (s.wired b poll res count step).bus = b := rfl
@[simp] theorem wired_poll : (s.wired b poll res count step).poll = poll := rfl
@[simp] theorem wired_res : (s.wired b poll res count step).res = res := rfl
@[simp] theorem wired_injCount : (s.wired b poll res count step).injCount = count := rfl
@[simp] theorem wired_dev : (s.wired b poll res count step).dev = s.dev := rfl
@[simp] theorem wired_ident : (s.wired b poll res count step).ident = s.ident := rfl
@[simp] theorem wired_arg0 : (s.wired b poll res count step).arg0 = s.arg0 := rfl
@[simp] theorem wired_arg1 : (s.wired b poll res count step).arg1 = s.arg1 := rfl
@[simp] theorem wired_arg2 : (s.wired b poll res count step).arg2 = s.arg2 := rfl
@[simp] theorem wired_hostSide : (s.wired b poll res count step).hostSide = s.hostSide := rfl
@[simp] theorem wired_wired (b' : TapSession) (poll' : PollRegs) (res' : FastData) (count' : Word)
    (step' : Nat) :
    (s.wired b poll res count step).wired b' poll' res' count' step' = s.wired b' poll' res' count' step' :=
  rfl
end wired

/-! ### The words -/

theorem preWords_eq : templatePre.map wordOf = preWords := by decide

theorem hi16_hole (d : Word) : ((Bits.hi16 d).setWidth 40).setWidth 32 = hi16Word d := by
  apply BitVec.eq_of_toNat_eq
  simp [Bits.hi16, hi16Word, BitVec.extractLsb'_toNat, Nat.shiftRight_eq_div_pow]
  omega
theorem lo16_hole (d : Word) : ((Bits.lo16 d).setWidth 40).setWidth 32 = lo16Word d := by
  apply BitVec.eq_of_toNat_eq
  rw [lo16Word, BitVec.toNat_and, show (0xFFFF#32).toNat = 2 ^ 16 - 1 from rfl,
    Nat.and_two_pow_sub_one_eq_mod]
  simp [Bits.lo16, BitVec.extractLsb'_toNat]
  omega
theorem op_hole (d : Word) : ((d.setWidth 4).setWidth 40).setWidth 32 = d &&& 0xF#32 := by
  apply BitVec.eq_of_toNat_eq
  rw [BitVec.toNat_and, show (0xF#32).toNat = 2 ^ 4 - 1 from rfl, Nat.and_two_pow_sub_one_eq_mod]
  simp
  omega

theorem dlWords_eq (ramAddr data : Word) : (templateDl ramAddr data).map wordOf = dlWords ramAddr data := by
  simp only [templateDl, List.map_cons, List.map_nil, wordOf, code, BitVec.setWidth_or, hi16_hole,
    lo16_hole]
  rfl

theorem foWords_eq (op fa ra : Word) : (templateFo op fa ra).map wordOf = foWords op fa ra := by
  simp only [templateFo, List.map_cons, List.map_nil, wordOf, code, BitVec.setWidth_or, hi16_hole,
    lo16_hole, op_hole]
  rfl

theorem rdWords_eq (a : Word) : (templateRd a).map wordOf = rdWords a := by
  simp only [templateRd, List.map_cons, List.map_nil, wordOf, code, BitVec.setWidth_or, hi16_hole,
    lo16_hole]
  rfl

/-! ### A template injected (R184) -/

/-- A template whose words are all serviced: the count check passes (R184). -/
theorem injectTemplate_serviced (template : List Instr) (length : Nat) (ws : List Word)
    (hws : template.map wordOf = ws) (hlen : ws.length = length) (hpos : ws ≠ []) (s : State) (e : Nat)
    (he : injectionsEnd s.bus length 0 = some e) :
    ∃ b poll value step, injectTemplate template length s =
        .done () (s.wired b poll { value := value, pracc := true }
          (s.injCount + BitVec.ofNat 32 length) step) ∧
      poll.attempt = s.poll.attempt ∧
      actionPulses (injectionsActions s.bus 0 ws) = e ∧
      Scanned s.bus b (injectionsActions s.bus 0 ws) s.bus.pins.rst (ir5 0x0A#32) s.bus.tapSel := by
  subst hlen
  obtain ⟨b, poll, value, he1, hat, hp, hb⟩ := injectWords_serviced ws hpos s e he
  refine ⟨b, poll, value, s.seq.step + ws.length, ?_, hat, hp, hb⟩
  rw [injectTemplate, hws, he1]
  simp only [Ran.andThen, checkCount]
  rw [if_pos (by rw [BitVec.add_comm, BitVec.add_sub_cancel])]
  rfl

/-- After a template `S.res` is that of its last injection (R160, R161). -/
theorem injectTemplate_last (template : List Instr) (length : Nat) (ws : List Word) (w : Word)
    (hws : template.map wordOf = ws ++ [w]) (hpos : ws ≠ []) (s t : State) (e j : Nat)
    (he : injectionsEnd s.bus ws.length 0 = some e) (hj : readyControlPoll s.bus e = some j)
    (h : injectTemplate template length s = .done () t) :
    t.res = { value := controlWord s.bus e j, pracc := true } := by
  rw [injectTemplate, hws] at h
  cases hr : injectWords (ws ++ [w]) s with
  | raised e u => rw [hr] at h; exact absurd h (by simp [Ran.andThen])
  | done a u =>
    rw [hr] at h
    have hu : u = t := by
      simp only [Ran.andThen, checkCount] at h
      split at h
      · simpa using h
      · exact absurd h (by simp)
    exact hu ▸ injectWords_last ws hpos w s u e j he hj hr

/-- A template of which the first `k` words are serviced and the next one is not (R162). -/
theorem injectTemplate_timeout (template : List Instr) (length : Nat) (ws : List Word)
    (hws : template.map wordOf = ws) (k : Nat) (w : Word) (hk : ws[k]? = some w) (s : State) (e : Nat)
    (he : injectionsEnd s.bus k 0 = some e) (hn : readyControlPoll s.bus e = none) :
    ∃ b poll step, injectTemplate template length s =
        .raised ⟨.busTimeout, w, controlWord s.bus e 99, 0x0004C000#32⟩
        (s.wired b poll { value := controlWord s.bus e 99, pracc := false }
          (s.injCount + BitVec.ofNat 32 k) step) ∧
      poll.attempt = s.poll.attempt ∧
      Scanned s.bus b (injectionsActions s.bus 0 (ws.take k) ++ injectionTimeout) s.bus.pins.rst
        (ir5 0x0A#32) s.bus.tapSel := by
  obtain ⟨b, poll, step, he1, hat, hb⟩ := injectWords_timeout ws k w hk s e he hn
  refine ⟨b, poll, step, ?_, hat, hb⟩
  rw [injectTemplate, hws, he1]
  rfl

/-- DownloadData (R179), every word serviced. -/
theorem downloadData_serviced (ramAddr data : Word) (s : State) (e : Nat)
    (he : injectionsEnd s.bus 5 0 = some e) :
    ∃ b poll value step, downloadData ramAddr data s =
        .done () (s.wired b poll { value := value, pracc := true } (s.injCount + 5#32) step) ∧
      poll.attempt = s.poll.attempt ∧
      actionPulses (injectionsActions s.bus 0 (dlWords ramAddr data)) = e ∧
      Scanned s.bus b (injectionsActions s.bus 0 (dlWords ramAddr data)) s.bus.pins.rst (ir5 0x0A#32)
        s.bus.tapSel :=
  injectTemplate_serviced _ 5 _ (dlWords_eq ramAddr data) rfl (by simp [dlWords]) s e he

/-! ### Fast-data (R138, R182) -/

/-- The session after one fast-data scan. -/
def fastDataScan (value : Word) (b : TapSession) : TapSession := (fastScan value b).2

theorem scanned_fastDataScan (value : Word) (b : TapSession) :
    Scanned b (fastDataScan value b) [.frame (fdFrame value)] b.pins.rst b.irSel b.tapSel :=
  scanned_fastScan value b

/-- XferFastData (R138). -/
theorem xferFastData_eq (value : Word) (s : State) :
    xferFastData value s =
      { s with
        bus := fastDataScan value s.bus
        res := { value := s.bus.answerWord 4 32, pracc := s.bus.answer 3 } } := by
  rw [xferFastData, fastDataScan]
  generalize hx : fastScan value s.bus = x
  have := (fastScan_eq value s.bus).symm.trans hx
  subst this
  rfl

theorem actionPulses_drainActions : actionPulses drainActions = 87 := by
  simp only [drainActions, actionPulses, irFrame_length, fdFrame_length]

/-- FastDataDrain (R182): the second scan decides. -/
theorem fastDataDrain_eq (s : State) :
    ∃ b step,
      fastDataDrain s =
        (if drainPracc s.bus 0 then
          .done (drainWord s.bus 0)
            (s.wired b s.poll { value := drainWord s.bus 0, pracc := true } s.injCount step)
        else
          .raised ⟨.protocolFraming, 0#32, drainWord s.bus 0, 1#32⟩
            (s.wired b s.poll { value := drainWord s.bus 0, pracc := false } s.injCount step)) ∧
      Scanned s.bus b drainActions s.bus.pins.rst (ir5 0x0E#32) s.bus.tapSel := by
  have h1 := scanned_ir5 0x0E#32 s.bus (by decide) (by decide) (by decide)
  have h2 := scanned_fastDataScan 0#32 (sendCommand 5 0x0E#32 s.bus)
  have h3 := scanned_fastDataScan 0#32 (fastDataScan 0#32 (sendCommand 5 0x0E#32 s.bus))
  have h12 := h1.trans_data h2
  have ha : ∀ k, (fastDataScan 0#32 (sendCommand 5 0x0E#32 s.bus)).answer k = s.bus.answer (49 + k) :=
    fun k => by rw [h12.did.answer]; simp [actionPulses]
  have hp : (fastDataScan 0#32 (sendCommand 5 0x0E#32 s.bus)).answer 3 = drainPracc s.bus 0 := ha 3
  have hw : (fastDataScan 0#32 (sendCommand 5 0x0E#32 s.bus)).answerWord 4 32 = drainWord s.bus 0 :=
    answerWord_congr (fun k => (ha _).trans (congrArg s.bus.answer (by omega))) 32
  refine ⟨fastDataScan 0#32 (fastDataScan 0#32 (sendCommand 5 0x0E#32 s.bus)), s.seq.step + 3, ?_, ?_⟩
  · rw [fastDataDrain]
    simp only [xferFastData_eq, State.call, State.onBus, State.tick,
      show Param.irBits = 5 from rfl, show Param.etapFastdata = 0x0E#32 from rfl, hp, hw]
    cases drainPracc s.bus 0 <;> rfl
  · rw [h2.rst_eq, h1.rst_eq] at h3
    exact h12.trans_data h3

/-- ReadFlashData (R183), every word serviced. -/
theorem readFlashData_serviced (addr : Word) (s : State) (e : Nat)
    (he : injectionsEnd s.bus 5 0 = some e) :
    ∃ b poll step,
      readFlashData addr s =
        (if drainPracc s.bus e then
          .done (drainWord s.bus e)
            (s.wired b poll { value := drainWord s.bus e, pracc := true } (s.injCount + 5#32) step)
        else
          .raised ⟨.protocolFraming, 0#32, drainWord s.bus e, 1#32⟩
            (s.wired b poll { value := drainWord s.bus e, pracc := false } (s.injCount + 5#32) step)) ∧
      poll.attempt = s.poll.attempt ∧
      actionPulses (injectionsActions s.bus 0 (rdWords addr) ++ drainActions) = e + 87 ∧
      Scanned s.bus b (injectionsActions s.bus 0 (rdWords addr) ++ drainActions) s.bus.pins.rst
        (ir5 0x0E#32) s.bus.tapSel := by
  obtain ⟨b1, poll, value, step, he1, hat, hp, hb1⟩ :=
    injectTemplate_serviced _ 5 _ (rdWords_eq addr) rfl (by simp [rdWords]) s e he
  obtain ⟨b2, step2, he2, hb2⟩ := fastDataDrain_eq
    (s.wired b1 poll { value := value, pracc := true } (s.injCount + BitVec.ofNat 32 5) step)
  have ha : ∀ k, b1.answer (0 + k) = s.bus.answer (e + k) := fun k => by
    rw [Nat.zero_add, hb1.did.answer, hp]
  simp only [wired_bus, drainPracc_shift ha, drainWord_shift ha, wired_poll, wired_injCount,
    wired_wired] at he2 hb2
  refine ⟨b2, poll, step2, ?_, hat, ?_, ?_⟩
  · rw [readFlashData, show lengthRd = 5 from rfl, he1]
    simp only [Ran.andThen, he2]
  · rw [actionPulses_append, actionPulses_drainActions, hp]
  · rw [hb1.rst_eq] at hb2
    exact hb1.trans_sel hb2

/-- FlashOperation (R180), every word serviced. -/
theorem flashOperation_serviced (op flashAddr ramAddr : Word) (s : State) (e : Nat)
    (he : injectionsEnd s.bus 30 0 = some e) :
    ∃ b poll step,
      flashOperation op flashAddr ramAddr s =
        (if drainPracc s.bus e then
          .done (drainWord s.bus e)
            (s.wired b poll { value := drainWord s.bus e, pracc := true } (s.injCount + 30#32) step)
        else
          .raised ⟨.protocolFraming, 0#32, drainWord s.bus e, 1#32⟩
            (s.wired b poll { value := drainWord s.bus e, pracc := false } (s.injCount + 30#32) step)) ∧
      poll.attempt = s.poll.attempt ∧ (drainPracc s.bus e = true → poll.tmp = drainWord s.bus e) ∧
      actionPulses (injectionsActions s.bus 0 (foWords op flashAddr ramAddr) ++ drainActions) = e + 87 ∧
      Scanned s.bus b (injectionsActions s.bus 0 (foWords op flashAddr ramAddr) ++ drainActions)
        s.bus.pins.rst (ir5 0x0E#32) s.bus.tapSel := by
  obtain ⟨b1, poll, value, step, he1, hat, hp, hb1⟩ :=
    injectTemplate_serviced _ 30 _ (foWords_eq op flashAddr ramAddr) rfl (by simp [foWords]) s e he
  obtain ⟨b2, step2, he2, hb2⟩ := fastDataDrain_eq
    (s.wired b1 poll { value := value, pracc := true } (s.injCount + BitVec.ofNat 32 30) step)
  have ha : ∀ k, b1.answer (0 + k) = s.bus.answer (e + k) := fun k => by
    rw [Nat.zero_add, hb1.did.answer, hp]
  simp only [wired_bus, drainPracc_shift ha, drainWord_shift ha, wired_poll, wired_injCount,
    wired_wired] at he2 hb2
  have hs : actionPulses (injectionsActions s.bus 0 (foWords op flashAddr ramAddr) ++ drainActions) =
      e + 87 := by rw [actionPulses_append, actionPulses_drainActions, hp]
  have hb : Scanned s.bus b2 (injectionsActions s.bus 0 (foWords op flashAddr ramAddr) ++ drainActions)
      s.bus.pins.rst (ir5 0x0E#32) s.bus.tapSel := by
    rw [hb1.rst_eq] at hb2
    exact hb1.trans_sel hb2
  cases hd : drainPracc s.bus e with
  | true =>
    refine ⟨b2, { poll with tmp := drainWord s.bus e }, step2, ?_, hat, fun _ => rfl, hs, hb⟩
    rw [flashOperation, show lengthFo = 30 from rfl, he1]
    simp only [Ran.andThen, he2, hd, if_true]
    rfl
  | false =>
    refine ⟨b2, poll, step2, ?_, hat, fun h => by simp at h, hs, hb⟩
    rw [flashOperation, show lengthFo = 30 from rfl, he1]
    simp only [Ran.andThen, he2, hd, Bool.false_eq_true, if_false]

/-! ### Status polls (R172 to R174) -/

/-- The session after one data scan of 8 bits. -/
def dataScan8 (value : Word) (b : TapSession) : TapSession := (xferData 8 value b).2

theorem scanned_dataScan8 (value : Word) (b : TapSession) :
    Scanned b (dataScan8 value b) [.frame (drFrame 8 value)] b.pins.rst b.irSel b.tapSel :=
  scanned_xferData (by decide) value b

theorem statusScan_eq (s : State) :
    statusScan s =
      { s with
        bus := dataScan8 0#32 s.bus
        poll := { s.poll with pollN := s.poll.pollN + 1, tmp := s.bus.answerWord 3 8 } } := by
  rw [← xferData8_fst 0#32]; rfl

theorem statusReady_answerWord (b : TapSession) (off : Nat) :
    statusReady (b.answerWord off 8) = (b.answer (off + 3) && !b.answer (off + 2)) := by
  rw [statusReady, getLsbD_answerWord _ _ _ _ (by decide), getLsbD_answerWord _ _ _ _ (by decide)]; rfl

/-- A delay after a scan. -/
theorem Scanned.sleep {b b1 : TapSession} {as : List Action} {rst ir sel} (ms : Nat)
    (h : Scanned b b1 as rst ir sel) :
    Scanned b (b1.emit (.sleep ms)) (as ++ [.sleep ms]) rst ir sel where
  did := h.did.trans ⟨by simp [actionEvents], by simp [actionPulses], by simp [actionPulses]⟩
  pos := by have := h.pos; simp [actionPulses]; omega
  last := by simp [h.last, actionPulses]
  pins := h.pins
  idle := h.idle

/-- The poll loop that is accepted on poll `j` (R172). -/
theorem statusPolls_ready (n : Nat) (s : State) (j : Nat) (hj : j < n)
    (hr : (s.bus.answer (13 * j + 6) && !s.bus.answer (13 * j + 5)) = true)
    (hn : ∀ i < j, (s.bus.answer (13 * i + 6) && !s.bus.answer (13 * i + 5)) = false) :
    ∃ b, statusPolls n s =
        .done (s.bus.answerWord (13 * j + 3) 8, s.poll.pollN + (j + 1))
          (s.wired b
            { s.poll with pollN := s.poll.pollN + (j + 1), tmp := s.bus.answerWord (13 * j + 3) 8 }
            s.res s.injCount (s.seq.step + 1)) ∧
      Scanned s.bus b (statusActions (j + 1)) s.bus.pins.rst s.bus.irSel s.bus.tapSel := by
  induction j generalizing n s with
  | zero =>
    obtain ⟨n, rfl⟩ := Nat.exists_eq_succ_of_ne_zero (by omega : n ≠ 0)
    refine ⟨dataScan8 0#32 s.bus, ?_, scanned_dataScan8 _ _⟩
    simp only [statusPolls, statusScan_eq, statusReady_answerWord]
    rw [if_pos hr]
    rfl
  | succ j ih =>
    obtain ⟨n, rfl⟩ := Nat.exists_eq_succ_of_ne_zero (by omega : n ≠ 0)
    have h0 : ¬ (s.bus.answer (3 + 3) && !s.bus.answer (3 + 2)) = true := by
      simpa only [Nat.mul_zero, Bool.not_eq_true] using hn 0 (by omega)
    simp only [statusPolls, statusScan_eq, statusReady_answerWord, if_neg h0]
    rw [if_neg (by omega : ¬ n = 0)]
    have h1 := (scanned_dataScan8 0#32 s.bus).sleep 10
    have ha : ∀ k, ((dataScan8 0#32 s.bus).emit (.sleep 10)).answer k = s.bus.answer (13 + k) := fun k => by
      rw [h1.did.answer]; simp [actionPulses]
    obtain ⟨b, he, hb⟩ := ih n
      ({ s with
        bus := (dataScan8 0#32 s.bus).emit (.sleep 10)
        poll := { s.poll with pollN := s.poll.pollN + 1, tmp := s.bus.answerWord 3 8 } } : State) (by omega)
      (by simp only [ha, ← hr]; congr 2 <;> [skip; congr 1] <;> omega)
      (fun i hi => by
        have := hn (i + 1) (by omega)
        simp only [ha]; rw [← this]; congr 2 <;> [skip; congr 1] <;> omega)
    have hw : ((dataScan8 0#32 s.bus).emit (.sleep 10)).answerWord (13 * j + 3) 8 =
        s.bus.answerWord (13 * (j + 1) + 3) 8 :=
      answerWord_congr (fun k => by rw [ha]; congr 1; omega) 8
    refine ⟨b, ?_, ?_⟩
    · refine Eq.trans he ?_
      simp only [hw]
      rw [show s.poll.pollN + 1 + (j + 1) = s.poll.pollN + (j + 1 + 1) by omega]
      rfl
    · have h2 := h1.trans_data hb
      rw [h1.rst_eq] at h2
      exact h2

/-- The poll loop that is never accepted (R172): no Sleep after the last poll. -/
theorem statusPolls_timeout (n : Nat) (hn : n ≠ 0) (s : State)
    (hr : ∀ i < n, (s.bus.answer (13 * i + 6) && !s.bus.answer (13 * i + 5)) = false) :
    ∃ b, statusPolls n s =
        .raised ⟨.busTimeout, 0#32, s.bus.answerWord (13 * (n - 1) + 3) 8, 0x08#32⟩
          (s.wired b
            { s.poll with pollN := s.poll.pollN + n, tmp := s.bus.answerWord (13 * (n - 1) + 3) 8 }
            s.res s.injCount s.seq.step) ∧
      Scanned s.bus b (statusActions n) s.bus.pins.rst s.bus.irSel s.bus.tapSel := by
  obtain ⟨n, rfl⟩ := Nat.exists_eq_succ_of_ne_zero hn
  clear hn
  have h0 : ¬ (s.bus.answer (3 + 3) && !s.bus.answer (3 + 2)) = true := by
    simpa only [Nat.mul_zero, Bool.not_eq_true] using hr 0 (by omega)
  induction n generalizing s with
  | zero =>
    refine ⟨dataScan8 0#32 s.bus, ?_, scanned_dataScan8 _ _⟩
    simp only [statusPolls, statusScan_eq, statusReady_answerWord, if_neg h0]
    rfl
  | succ n ih =>
    rw [statusPolls]
    simp only [statusScan_eq, statusReady_answerWord, if_neg h0]
    rw [if_neg (by omega : ¬ n + 1 = 0)]
    have h1 := (scanned_dataScan8 0#32 s.bus).sleep 10
    have ha : ∀ k, ((dataScan8 0#32 s.bus).emit (.sleep 10)).answer k = s.bus.answer (13 + k) := fun k => by
      rw [h1.did.answer]; simp [actionPulses]
    have hr' : ∀ i < n + 1, (((dataScan8 0#32 s.bus).emit (.sleep 10)).answer (13 * i + 6) &&
        !((dataScan8 0#32 s.bus).emit (.sleep 10)).answer (13 * i + 5)) = false := fun i hi => by
      have := hr (i + 1) (by omega)
      simp only [ha]; rw [← this]; congr 2 <;> [skip; congr 1] <;> omega
    obtain ⟨b, he, hb⟩ := ih
      ({ s with
        bus := (dataScan8 0#32 s.bus).emit (.sleep 10)
        poll := { s.poll with pollN := s.poll.pollN + 1, tmp := s.bus.answerWord 3 8 } } : State)
      hr' (by simpa only [Nat.mul_zero, Bool.not_eq_true] using hr' 0 (by omega))
    have hw : ((dataScan8 0#32 s.bus).emit (.sleep 10)).answerWord (13 * (n + 1 - 1) + 3) 8 =
        s.bus.answerWord (13 * (n + 1 + 1 - 1) + 3) 8 :=
      answerWord_congr (fun k => by rw [ha]; congr 1; omega) 8
    refine ⟨b, ?_, ?_⟩
    · refine Eq.trans he ?_
      simp only [Nat.succ_eq_add_one, hw]
      rw [show s.poll.pollN + 1 + (n + 1) = s.poll.pollN + (n + 1 + 1) by omega]
      rfl
    · have h2 := h1.trans_data hb
      rw [h1.rst_eq] at h2
      exact h2

theorem actionPulses_statusActions (n : Nat) : actionPulses (statusActions (n + 1)) = 13 * (n + 1) := by
  induction n with
  | zero => simp [statusActions, actionPulses]
  | succ n ih => simp only [statusActions, actionPulses, ih, drFrame_length]; omega

end Sys2Proof.Machine
end

