-- ==== Sys2Proof/Laws/Operations.lean ====
section
/-! SUPPORT. The device operations that drive the reset line or poll the status register (R173 to R176),
and one attempt of ProgramWord (R221): once for all what each does. -/

namespace Sys2Proof.Machine

/-! ### The reset line and the TAP reset (R137, R178) -/

/-- The session after SetRst (R178). -/
def driveRst (a : Bool) (b : TapSession) : TapSession :=
  { b.emit (.drive .rst (!a)) with pins := { b.pins with rst := a } }

theorem setRst_eq (a : Bool) (s : State) : s.setRst a = { s with bus := driveRst a s.bus } := by
  cases a <;> rfl

theorem did_driveRst (a : Bool) (b : TapSession) : Did b (driveRst a b) [.reset a] :=
  ⟨emit_trace b _, rfl, rfl⟩

/-- A reset edge after a scan. -/
theorem Scanned.reset {b b1 : TapSession} {as : List Action} {rst ir sel} (a : Bool)
    (h : Scanned b b1 as rst ir sel) : Scanned b (driveRst a b1) (as ++ [.reset a]) a ir sel where
  did := h.did.trans (did_driveRst a b1)
  pos := by have := h.pos; simp [actionPulses]; omega
  last := by
    have : (driveRst a b1).tdoLast = b1.tdoLast := rfl
    simp [this, h.last, actionPulses]
  pins := by
    have : (driveRst a b1).pins = { b1.pins with rst := a } := rfl
    rw [this, h.pins]
  idle := h.idle

/-- Scans after a reset edge. -/
theorem Scanned.after_reset {b b2 : TapSession} {as : List Action} {rst ir sel} (a : Bool)
    (h : Scanned (driveRst a b) b2 as rst ir sel) : Scanned b b2 (.reset a :: as) rst ir sel where
  did := (did_driveRst a b).trans h.did
  pos := h.pos
  last := h.last
  pins := h.pins
  idle := h.idle

theorem setMode_tapReset (b : TapSession) :
    tapReset b = (runPulses (modeFrame 6 0x1F#32) b).setShift
      (scanRegs 0x1F#32 (b.answerWord 0 6) 6) := by
  rw [tapReset, show Param.tapResetBits = 6 from rfl, setMode_eq (by decide)]
  rfl

/-- TapReset (R137) reaches Run-Test/Idle from every shadow. -/
theorem atIdle_tapReset (b : TapSession) :
    AtIdle (tapReset b) ∧ (tapReset b).irSel = none ∧ (tapReset b).tapSel = .unknownSel := by
  have h := tapReset_shadow b
  rw [setMode_tapReset]
  exact ⟨⟨congrArg Shadow.tap h, congrArg Shadow.ones h⟩, congrArg Shadow.irSel h, congrArg Shadow.tapSel h⟩

theorem scanned_tapReset (b : TapSession) :
    Scanned b (tapReset b) [.frame (modeFrame 6 0x1F#32)] b.pins.rst none .unknownSel := by
  have hf : modeFrame 6 0x1F#32 =
      [⟨true, false⟩, ⟨true, false⟩, ⟨true, false⟩, ⟨true, false⟩, ⟨true, false⟩] ++ [⟨false, false⟩] := by
    decide
  refine ⟨?_, by simp [actionPulses], ?_, ?_, fun _ => atIdle_tapReset b⟩
  · rw [setMode_tapReset]; exact did_runPulses _ _
  · rw [setMode_tapReset, setShift_tdoLast, hf, runPulses_getLast_tdoLast]; rfl
  · rw [setMode_tapReset, setShift_pins, hf, runPulses_getLast_pins]

/-! ### CheckStatus and Erase (R173, R174) -/

theorem statusPoll_ready (s : State) (j : Nat) (hj : readyStatusPoll s.bus 0 = some j) :
    ∃ b, statusPoll s =
        .done (statusByte s.bus 0 j, j + 1)
          (s.wired b { s.poll with pollN := j + 1, tmp := statusByte s.bus 0 j } s.res s.injCount
            (s.seq.step + 1)) ∧
      Scanned s.bus b (statusActions (j + 1)) s.bus.pins.rst s.bus.irSel s.bus.tapSel := by
  obtain ⟨hlt, hr, hn⟩ := readyStatusPoll_some hj
  simp only [Nat.zero_add] at hr hn
  obtain ⟨b, he, hb⟩ := statusPolls_ready 100 s.clearPolls j hlt hr hn
  refine ⟨b, ?_, hb⟩
  rw [statusPoll, show Param.statusPollMax = 100 from rfl, he]
  simp only [statusByte, Nat.zero_add, State.clearPolls]
  rfl

theorem statusPoll_timeout (s : State) (hj : readyStatusPoll s.bus 0 = none) :
    ∃ b, statusPoll s =
        .raised ⟨.busTimeout, 0#32, statusByte s.bus 0 99, 0x08#32⟩
          (s.wired b { s.poll with pollN := 100, tmp := statusByte s.bus 0 99 } s.res s.injCount
            s.seq.step) ∧
      Scanned s.bus b (statusActions 100) s.bus.pins.rst s.bus.irSel s.bus.tapSel := by
  have hn := readyStatusPoll_none hj
  simp only [Nat.zero_add] at hn
  obtain ⟨b, he, hb⟩ := statusPolls_timeout 100 (by decide) s.clearPolls hn
  refine ⟨b, ?_, hb⟩
  rw [statusPoll, show Param.statusPollMax = 100 from rfl, he]
  simp only [statusByte, Nat.zero_add, State.clearPolls]
  rfl

/-- The state in which CheckStatus polls: reset asserted, the memory-control tap and its command register
selected. -/
def statusGate (s : State) : State :=
  s.wired
    (sendCommand 5 0x07#32 (sendCommand 5 0x04#32 (tapReset (driveRst true s.bus)))) s.poll s.res
    s.injCount (s.seq.step + 4)

/-- The actions before the polls of CheckStatus (R173). -/
def gateActions : List Action :=
  [.reset true, .frame (modeFrame 6 0x1F#32), .frame (irFrame 5 0x04#32), .frame (irFrame 5 0x07#32)]

theorem checkStatus_eq (s : State) :
    checkStatus s =
      (statusPoll (statusGate s)).andThen fun r s => .done r (s.setDev .mtapSelected) := by
  rw [checkStatus, setRst_eq]; rfl

theorem scanned_statusGate (s : State) :
    Scanned s.bus (statusGate s).bus gateActions true (ir5 0x07#32) .mtap ∧
      AtIdle (statusGate s).bus ∧ (statusGate s).bus.irSel = ir5 0x07#32 ∧
      (statusGate s).bus.tapSel = .mtap := by
  have h1 := scanned_tapReset (driveRst true s.bus)
  have h2 := scanned_ir5_mtap (tapReset (driveRst true s.bus))
  have h3 := scanned_ir5 0x07#32 (sendCommand 5 0x04#32 (tapReset (driveRst true s.bus))) (by decide)
    (by decide) (by decide)
  rw [h2.rst_eq, h1.rst_eq] at h3
  have hi := (h2.trans_sel h3).idle (atIdle_tapReset _).1
  refine ⟨?_, hi⟩
  exact ((h1.trans (h2.trans_sel h3))).after_reset true

theorem statusGate_answer (s : State) (k : Nat) :
    (statusGate s).bus.answer (0 + k) = s.bus.answer (28 + k) := by
  rw [(scanned_statusGate s).1.did.answer]; simp [gateActions, actionPulses]

theorem checkStatus_ready (s : State) (j : Nat) (hj : readyStatusPoll s.bus 28 = some j) :
    ∃ b step, checkStatus s =
        .done (statusByte s.bus 28 j, j + 1)
          ((s.wired b { s.poll with pollN := j + 1, tmp := statusByte s.bus 28 j } s.res s.injCount
            step).setDev .mtapSelected) ∧
      DidScans s.bus b (gateActions ++ statusActions (j + 1)) true ∧
      AtIdle b ∧ b.irSel = ir5 0x07#32 ∧ b.tapSel = .mtap := by
  obtain ⟨h, hi, hir, hsel⟩ := scanned_statusGate s
  rw [← readyStatusPoll_shift (statusGate_answer s)] at hj
  obtain ⟨b, he, hb⟩ := statusPoll_ready (statusGate s) j hj
  rw [h.rst_eq] at hb
  obtain ⟨hi2, h5, h6⟩ := hb.idle hi
  refine ⟨b, s.seq.step + 5, ?_, (h.trans_data hb).didScans, hi2, h5.trans hir, h6.trans hsel⟩
  rw [checkStatus_eq, he, statusByte_shift (statusGate_answer s)]
  rfl

theorem checkStatus_timeout (s : State) (hj : readyStatusPoll s.bus 28 = none) :
    ∃ b step, checkStatus s =
        .raised ⟨.busTimeout, 0#32, statusByte s.bus 28 99, 0x08#32⟩
          (s.wired b { s.poll with pollN := 100, tmp := statusByte s.bus 28 99 } s.res s.injCount step) ∧
      DidScans s.bus b (gateActions ++ statusActions 100) true ∧
      AtIdle b ∧ b.irSel = ir5 0x07#32 ∧ b.tapSel = .mtap := by
  obtain ⟨h, hi, hir, hsel⟩ := scanned_statusGate s
  rw [← readyStatusPoll_shift (statusGate_answer s)] at hj
  obtain ⟨b, he, hb⟩ := statusPoll_timeout (statusGate s) hj
  rw [h.rst_eq] at hb
  obtain ⟨hi2, h5, h6⟩ := hb.idle hi
  refine ⟨b, s.seq.step + 4, ?_, (h.trans_data hb).didScans, hi2, h5.trans hir, h6.trans hsel⟩
  rw [checkStatus_eq, he, statusByte_shift (statusGate_answer s)]
  rfl

/-- The state in which Erase polls. -/
def eraseSent (s : State) : State :=
  s.wired (dataScan8 0xFC#32 (sendCommand 5 0x07#32 (sendCommand 5 0x04#32 s.bus))) s.poll s.res s.injCount
    (s.seq.step + 3)

/-- The actions before the polls of Erase (R174). -/
def eraseActions : List Action :=
  [.frame (irFrame 5 0x04#32), .frame (irFrame 5 0x07#32), .frame (drFrame 8 0xFC#32)]

theorem scanned_eraseSent (s : State) :
    Scanned s.bus (eraseSent s).bus eraseActions s.bus.pins.rst (ir5 0x07#32) .mtap := by
  have h1 := scanned_ir5_mtap s.bus
  have h2 := scanned_ir5 0x07#32 (sendCommand 5 0x04#32 s.bus) (by decide) (by decide) (by decide)
  have h3 := scanned_dataScan8 0xFC#32 (sendCommand 5 0x07#32 (sendCommand 5 0x04#32 s.bus))
  rw [h2.rst_eq, h1.rst_eq] at h3
  exact (h1.trans_sel h2).trans_data h3

theorem eraseSent_answer (s : State) (k : Nat) :
    (eraseSent s).bus.answer (0 + k) = s.bus.answer (35 + k) := by
  rw [(scanned_eraseSent s).did.answer]; simp [eraseActions, actionPulses]

theorem erase_ready (s : State) (j : Nat) (hj : readyStatusPoll s.bus 35 = some j) :
    ∃ b step, erase s =
        .done (statusByte s.bus 35 j, j + 1)
          (s.wired b { s.poll with pollN := j + 1, tmp := statusByte s.bus 35 j } s.res s.injCount step) ∧
      Scanned s.bus b (eraseActions ++ statusActions (j + 1) ++ [.frame (irFrame 5 0x05#32)])
        s.bus.pins.rst (ir5 0x05#32) .etap := by
  have h := scanned_eraseSent s
  rw [← readyStatusPoll_shift (eraseSent_answer s)] at hj
  obtain ⟨b, he, hb⟩ := statusPoll_ready (eraseSent s) j hj
  have h2 := h.trans_data hb
  have h3 := scanned_ir5_etap b
  rw [h2.rst_eq, h.rst_eq] at h3
  refine ⟨sendCommand 5 0x05#32 b, s.seq.step + 5, ?_, h2.trans h3⟩
  have hs : erase s = (statusPoll (eraseSent s)).andThen fun r s =>
      .done r (s.call (sendCommand Param.irBits Param.mtapSwEtap)) := rfl
  rw [hs, he, statusByte_shift (eraseSent_answer s)]
  rfl

theorem erase_timeout (s : State) (hj : readyStatusPoll s.bus 35 = none) :
    ∃ b step, erase s =
        .raised ⟨.busTimeout, 0#32, statusByte s.bus 35 99, 0x08#32⟩
          (s.wired b { s.poll with pollN := 100, tmp := statusByte s.bus 35 99 } s.res s.injCount step) ∧
      Scanned s.bus b (eraseActions ++ statusActions 100) s.bus.pins.rst (ir5 0x07#32) .mtap := by
  have h := scanned_eraseSent s
  rw [← readyStatusPoll_shift (eraseSent_answer s)] at hj
  obtain ⟨b, he, hb⟩ := statusPoll_timeout (eraseSent s) hj
  have h2 := h.trans_data hb
  rw [h.rst_eq] at h2
  refine ⟨b, s.seq.step + 3, ?_, h2⟩
  have hs : erase s = (statusPoll (eraseSent s)).andThen fun r s =>
      .done r (s.call (sendCommand Param.irBits Param.mtapSwEtap)) := rfl
  rw [hs, he, statusByte_shift (eraseSent_answer s)]
  rfl

/-! ### EnterPgmMode and ExitPgmMode (R175, R176) -/

/-- The state in which EnterPgmMode injects its preamble. -/
def bootSent (s : State) : State :=
  s.wired ((driveRst false (sendCommand 5 0x0C#32 (sendCommand 5 0x05#32 s.bus))).emit (.sleep 10)) s.poll
    s.res s.injCount (s.seq.step + 3)

/-- The actions before the preamble of EnterPgmMode (R175). -/
def bootActions : List Action :=
  [.frame (irFrame 5 0x05#32), .frame (irFrame 5 0x0C#32), .reset false, .sleep 10]

theorem scanned_bootSent (s : State) :
    Scanned s.bus (bootSent s).bus bootActions false (ir5 0x0C#32) .etap := by
  have h1 := scanned_ir5_etap s.bus
  have h2 := scanned_ir5 0x0C#32 (sendCommand 5 0x05#32 s.bus) (by decide) (by decide) (by decide)
  exact (((h1.trans_sel h2).reset false).sleep 10)

theorem bootSent_answer (s : State) (k : Nat) : (bootSent s).bus.answer k = s.bus.answer (22 + k) := by
  rw [(scanned_bootSent s).did.answer]; simp [bootActions, actionPulses]

theorem enterPgmMode_eq (s : State) :
    enterPgmMode s =
      (injectTemplate templatePre lengthPre (bootSent s)).andThen fun _ s => .done () (s.setDev .debugMode) := by
  rw [enterPgmMode, setRst_eq]; rfl

theorem enterPgmMode_serviced (s : State) (e : Nat) (he : injectionsEnd s.bus 2 22 = some e) :
    ∃ b poll value step, enterPgmMode s =
        .done () ((s.wired b poll { value := value, pracc := true } (s.injCount + 2#32) step).setDev
          .debugMode) ∧
      Scanned s.bus b (bootActions ++ injectionsActions s.bus 22 preWords) false (ir5 0x0A#32) .etap := by
  have h := scanned_bootSent s
  have he2 := injectionsEnd_from (bootSent_answer s) 2
  rw [he] at he2
  cases hm : injectionsEnd (bootSent s).bus 2 0 with
  | none => rw [hm] at he2; simp at he2
  | some e' =>
    obtain ⟨b, poll, value, step, h1, _, _, hb⟩ :=
      injectTemplate_serviced _ 2 _ preWords_eq rfl (by simp [preWords]) (bootSent s) e' hm
    have hsh : injectionsActions (bootSent s).bus 0 preWords = injectionsActions s.bus 22 preWords :=
      injectionsActions_shift (fun k => by rw [Nat.zero_add]; exact bootSent_answer s k) _
    rw [hsh, h.rst_eq] at hb
    refine ⟨b, poll, value, step, ?_, h.trans_sel hb⟩
    rw [enterPgmMode_eq, show lengthPre = 2 from rfl, h1]
    rfl

theorem enterPgmMode_timeout (s : State) (k : Nat) (w : Word) (hk : preWords[k]? = some w) (e : Nat)
    (he : injectionsEnd s.bus k 22 = some e) (hn : readyControlPoll s.bus e = none) :
    ∃ b poll step, enterPgmMode s =
        .raised ⟨.busTimeout, w, controlWord s.bus e 99, 0x0004C000#32⟩
        (s.wired b poll { value := controlWord s.bus e 99, pracc := false }
          (s.injCount + BitVec.ofNat 32 k) step) ∧
      Scanned s.bus b
        (bootActions ++ (injectionsActions s.bus 22 (preWords.take k) ++ injectionTimeout)) false
        (ir5 0x0A#32) .etap := by
  have h := scanned_bootSent s
  have he2 := injectionsEnd_from (bootSent_answer s) k
  rw [he] at he2
  cases hm : injectionsEnd (bootSent s).bus k 0 with
  | none => rw [hm] at he2; simp at he2
  | some e' =>
    rw [hm] at he2
    simp only [Option.map_some, Option.some.injEq] at he2
    have ha : ∀ i, (bootSent s).bus.answer (e' + i) = s.bus.answer (e + i) := fun i => by
      rw [bootSent_answer, he2, Nat.add_assoc]
    obtain ⟨b, poll, step, h1, _, hb⟩ :=
      injectTemplate_timeout templatePre lengthPre _ preWords_eq k w hk (bootSent s) e' hm
        (by rw [readyControlPoll_shift ha]; exact hn)
    have hsh : injectionsActions (bootSent s).bus 0 (preWords.take k) =
        injectionsActions s.bus 22 (preWords.take k) :=
      injectionsActions_shift (fun i => by rw [Nat.zero_add]; exact bootSent_answer s i) _
    rw [hsh, h.rst_eq] at hb
    refine ⟨b, poll, step, ?_, h.trans_sel hb⟩
    rw [enterPgmMode_eq, h1, controlWord_shift ha]
    rfl

/-- The actions of ExitPgmMode (R176). -/
def exitActions : List Action :=
  [.frame (modeFrame 6 0x1F#32), .frame (irFrame 5 0x04#32), .reset true, .sleep 10, .reset false]

theorem exitPgmMode_eq (s : State) :
    ∃ b step, exitPgmMode s = (s.wired b s.poll s.res s.injCount step).setDev .reset ∧
      DidScans s.bus b exitActions false ∧ AtIdle b ∧ b.irSel = ir5 0x04#32 ∧ b.tapSel = .mtap := by
  have h1 := scanned_tapReset s.bus
  have h2 := scanned_ir5_mtap (tapReset s.bus)
  have h3 := ((h2.reset true).sleep 10).reset false
  refine ⟨_, s.seq.step + 4, ?_, (h1.trans h3).didScans, h3.idle (atIdle_tapReset _).1⟩
  rw [exitPgmMode, setRst_eq, setRst_eq]
  rfl

/-! ### ProgramWord (R221) -/

theorem injectionsEnd_add (b : TapSession) (m n off : Nat) :
    injectionsEnd b (m + n) off = (injectionsEnd b m off).bind (injectionsEnd b n) := by
  induction m generalizing off with
  | zero => simp [injectionsEnd]
  | succ m ih =>
    rw [Nat.add_right_comm, injectionsEnd, injectionsEnd, Option.bind_assoc]
    exact congrArg _ (funext ih)

theorem injectionsEnd_split {b : TapSession} {m n off e : Nat}
    (h : injectionsEnd b (m + n) off = some e) :
    ∃ e1, injectionsEnd b m off = some e1 ∧ injectionsEnd b n e1 = some e := by
  rw [injectionsEnd_add] at h
  exact Option.bind_eq_some_iff.mp h

theorem injectionsActions_append {b : TapSession} (ws vs : List Word) (off e : Nat)
    (he : injectionsEnd b ws.length off = some e) :
    injectionsActions b off (ws ++ vs) = injectionsActions b off ws ++ injectionsActions b e vs := by
  induction ws generalizing off with
  | nil => simp only [List.length_nil, injectionsEnd, Option.some.injEq] at he; subst he; rfl
  | cons w ws ih =>
    obtain ⟨j, hj, hrest⟩ := injectionsEnd_succ he
    simp only [List.cons_append, injectionsActions, hj, ih _ hrest, List.append_assoc]

/-- One attempt (R221), every word serviced: the download, the operation and its status word. -/
theorem programOnce (a v : Word) (s : State) (e : Nat) (he : injectionsEnd s.bus 35 0 = some e) :
    ∃ b poll step, (downloadData 0#32 v s).andThen (fun _ s => flashOperation 0x1#32 a 0#32 s) =
        (if drainPracc s.bus e then
          .done (drainWord s.bus e)
            (s.wired b poll { value := drainWord s.bus e, pracc := true } (s.injCount + 35#32) step)
        else
          .raised ⟨.protocolFraming, 0#32, drainWord s.bus e, 1#32⟩
            (s.wired b poll { value := drainWord s.bus e, pracc := false } (s.injCount + 35#32) step)) ∧
      poll.attempt = s.poll.attempt ∧ (drainPracc s.bus e = true → poll.tmp = drainWord s.bus e) ∧
      actionPulses (attemptActions s.bus 0 a v) = e + 87 ∧
      Scanned s.bus b (attemptActions s.bus 0 a v) s.bus.pins.rst (ir5 0x0E#32) s.bus.tapSel := by
  obtain ⟨e1, h5, h30⟩ := injectionsEnd_split (m := 5) (n := 30) he
  obtain ⟨b1, poll1, value1, step1, he1, hat1, hp1, hb1⟩ := downloadData_serviced 0#32 v s e1 h5
  have ha : ∀ k, b1.answer k = s.bus.answer (e1 + k) := fun k => by rw [hb1.did.answer, hp1]
  obtain ⟨e2, hm, he⟩ := injectionsEnd_some_from ha h30
  obtain ⟨b2, poll2, step2, he2, hat2, ht2, hp2, hb2⟩ := flashOperation_serviced 0x1#32 a 0#32
    (s.wired b1 poll1 { value := value1, pracc := true } (s.injCount + 5#32) step1) e2
    (by rw [wired_bus]; exact hm)
  have ha2 : ∀ k, b1.answer (e2 + k) = s.bus.answer (e + k) := fun k => by
    rw [ha, ← he, Nat.add_assoc]
  simp only [wired_bus, drainPracc_shift ha2, drainWord_shift ha2, wired_wired,
    wired_injCount] at he2 ht2 hb2 hp2
  have hsh : injectionsActions b1 0 (foWords 0x1#32 a 0#32) =
      injectionsActions s.bus e1 (foWords 0x1#32 a 0#32) :=
    injectionsActions_shift (fun i => by rw [Nat.zero_add]; exact ha i) _
  rw [hsh] at hb2 hp2
  have hacts : attemptActions s.bus 0 a v =
      injectionsActions s.bus 0 (dlWords 0#32 v) ++
        (injectionsActions s.bus e1 (foWords 0x1#32 a 0#32) ++ drainActions) := by
    rw [attemptActions, injectionsActions_append (dlWords 0#32 v) _ 0 e1 h5, List.append_assoc]
  refine ⟨b2, poll2, step2, ?_, hat2.trans hat1, ht2, ?_, ?_⟩
  · rw [he1]
    simp only [Ran.andThen, he2]
    have hc : s.injCount + 5#32 + 30#32 = s.injCount + 35#32 := by rw [BitVec.add_assoc]; rfl
    rw [hc]
  · rw [hacts, actionPulses_append, hp1, hp2]; omega
  · rw [hacts]
    rw [hb1.rst_eq] at hb2
    exact hb1.trans_sel hb2

end Sys2Proof.Machine
end

