-- ==== Sys2Proof/Laws/Commands.lean ====
section
/-! SUPPORT. The dispatcher (R212), a raised error (R250), identification (R210) and ProgramWord (R221):
once for all how a command ends. -/

namespace Sys2Proof.Machine

/-! ### Accepted or refused (R212) -/

/-- The state in which an accepted command's rule starts (R212 step 5). -/
def State.accepted (c : Byte) (s : State) : State := { s.begin c with injCount := 0#32 }

section accepted
variable (c : Byte) (s : State)
@[simp] theorem accepted_bus : (s.accepted c).bus = s.bus := rfl
@[simp] theorem accepted_res : (s.accepted c).res = s.res := rfl
@[simp] theorem accepted_poll : (s.accepted c).poll = s.poll := rfl
@[simp] theorem accepted_arg0 : (s.accepted c).arg0 = s.arg0 := rfl
@[simp] theorem accepted_arg1 : (s.accepted c).arg1 = s.arg1 := rfl
@[simp] theorem accepted_arg2 : (s.accepted c).arg2 = s.arg2 := rfl
@[simp] theorem accepted_dev : (s.accepted c).dev = s.dev := rfl
@[simp] theorem accepted_fatal : (s.accepted c).fatal = s.fatal := rfl
@[simp] theorem accepted_err : (s.accepted c).err = s.err := rfl
@[simp] theorem accepted_ident : (s.accepted c).ident = s.ident := rfl
@[simp] theorem accepted_injCount : (s.accepted c).injCount = 0#32 := rfl
@[simp] theorem accepted_requests : (s.accepted c).requests = s.requests := rfl
@[simp] theorem accepted_catalog : (s.accepted c).catalog = s.catalog := rfl
end accepted

theorem runCommand_accepted {c : Byte} {op : Operation} {argsOk : Bool} {body : State → Ran (Word × Word)}
    {s : State} (h : firstRefusal c op argsOk s = none) :
    runCommand c op argsOk body s = finish c (body (s.accepted c)) := by
  rw [runCommand, h]; rfl

theorem runCommand_refused {c : Byte} {op : Operation} {argsOk : Bool} {body : State → Ran (Word × Word)}
    {s : State} {k : RefuseKind} (h : firstRefusal c op argsOk s = some k) :
    runCommand c op argsOk body s = refusedState (k.toCode.setWidth 32) s := by
  rw [runCommand, h]; rfl

/-- A command is accepted when no latch, no state and no operand stands against it (R212 steps 2 to 4). -/
theorem firstRefusal_none {c : Byte} {op : Operation} {argsOk : Bool} {s : State} (hf : s.fatal = false)
    (hl : legalNow op s = true) (ha : argsOk = true) : firstRefusal c op argsOk s = none := by
  simp [firstRefusal, hf, hl, ha]

/-- How a command ends is one of three (R240): OK, an error taken, or a refusal. -/
theorem runCommand_cases (c : Byte) (op : Operation) (argsOk : Bool) (body : State → Ran (Word × Word))
    (s : State) :
    (∃ k : RefuseKind, runCommand c op argsOk body s = refusedState (k.toCode.setWidth 32) s) ∨
    (∃ r t, body (s.accepted c) = .done r t ∧ runCommand c op argsOk body s = respond 0#4 r.1 r.2 t) ∨
    (∃ e t, body (s.accepted c) = .raised e t ∧ runCommand c op argsOk body s = raise c e t) := by
  cases h : firstRefusal c op argsOk s with
  | some k => exact .inl ⟨k, runCommand_refused h⟩
  | none =>
    rw [runCommand_accepted h]
    cases hb : body (s.accepted c) with
    | done r t => exact .inr (.inl ⟨r, t, rfl, rfl⟩)
    | raised e t => exact .inr (.inr ⟨e, t, rfl, rfl⟩)

/-! ### The end of a command -/

section respond
variable (code : BitVec 4) (r0 r1 : Word) (s : State)
theorem ended_respond : Ended (respond code r0 r1 s) (code.setWidth 32) r0 r1 := ⟨rfl, rfl, rfl, rfl, rfl⟩
end respond

section raise
variable (c : Byte) (e : RaiseInfo) (s : State)
@[simp] theorem raise_bus : (raise c e s).bus = s.bus := by rw [raise]; split <;> rfl
@[simp] theorem raise_res : (raise c e s).res = s.res := by rw [raise]; split <;> rfl
@[simp] theorem raise_poll : (raise c e s).poll = s.poll := by rw [raise]; split <;> rfl
@[simp] theorem raise_arg0 : (raise c e s).arg0 = s.arg0 := by rw [raise]; split <;> rfl
@[simp] theorem raise_arg1 : (raise c e s).arg1 = s.arg1 := by rw [raise]; split <;> rfl
@[simp] theorem raise_arg2 : (raise c e s).arg2 = s.arg2 := by rw [raise]; split <;> rfl
@[simp] theorem raise_injCount : (raise c e s).injCount = s.injCount := by rw [raise]; split <;> rfl
@[simp] theorem raise_requests : (raise c e s).requests = s.requests := by rw [raise]; split <;> rfl
@[simp] theorem raise_catalog : (raise c e s).catalog = s.catalog := by rw [raise]; split <;> rfl
theorem raised_raise : Raised (raise c e s) e.kind.toCode c e.addr e.obs e.exp := by
  rw [raise]; split <;> exact ⟨rfl, rfl, rfl, rfl, rfl, rfl, rfl⟩

/-- BusTimeout and ProtocolFraming drop the device state (R250). -/
theorem raise_dropped (h : dropsDev e.kind = true) : DeviceDropped s (raise c e s) := by
  rw [raise, if_pos h]; exact ⟨rfl, rfl⟩

/-- The other errors keep it (R250). -/
theorem raise_kept (h : dropsDev e.kind = false) : DeviceKept s (raise c e s) := by
  rw [raise, if_neg (by simp [h])]; exact ⟨rfl, rfl⟩
end raise

/-! ### ProgramWord (R221) -/

/-- `S.attempt` counted once more. -/
def State.tried (s : State) : State := { s with poll := { s.poll with attempt := s.poll.attempt + 1 } }

theorem programAttempts_succ (a v : Word) (n : Nat) (s : State) :
    programAttempts a v (n + 1) s =
      ((downloadData 0#32 v s.tried).andThen fun _ s => flashOperation 0x1#32 a 0#32 s).andThen fun st s =>
        match evalNvmStatus st with
        | .done => .done (st, s.poll.attempt) s
        | .unconfirmed => .raised ⟨.busTimeout, a, st, 0#32⟩ s
        | .failed => programAttempts a v n s := by
  rw [programAttempts, State.tried]
  simp only [show Param.scratchOff = 0#32 from rfl, show Param.nvmopWriteWord = 0x1#32 from rfl]
  cases downloadData 0#32 v _ <;> rfl

theorem programAttempt_some {b : TapSession} {off : Nat} {st : Word} {e : Nat}
    (h : programAttempt b off = some (st, e)) :
    ∃ e', injectionsEnd b 35 off = some e' ∧ drainPracc b e' = true ∧ drainWord b e' = st ∧ e' + 87 = e := by
  rw [programAttempt] at h
  cases hm : injectionsEnd b 35 off with
  | none => rw [hm] at h; simp at h
  | some e' =>
    rw [hm] at h
    simp only [Option.bind_some] at h
    split at h
    · simp only [Option.some.injEq, Prod.mk.injEq] at h
      exact ⟨e', rfl, ‹_›, h.1, h.2⟩
    · simp at h

/-- One attempt that reads a status word back (R221). -/
theorem programAttempts_once (a v : Word) (n : Nat) (s : State) (st : Word) (e : Nat)
    (h : programAttempt s.bus 0 = some (st, e)) :
    ∃ b poll step, programAttempts a v (n + 1) s =
        (match evalNvmStatus st with
        | .done => .done (st, s.poll.attempt + 1)
            (s.wired b poll { value := st, pracc := true } (s.injCount + 35#32) step)
        | .unconfirmed => .raised ⟨.busTimeout, a, st, 0#32⟩
            (s.wired b poll { value := st, pracc := true } (s.injCount + 35#32) step)
        | .failed => programAttempts a v n
            (s.wired b poll { value := st, pracc := true } (s.injCount + 35#32) step)) ∧
      poll.attempt = s.poll.attempt + 1 ∧ poll.tmp = st ∧
      actionPulses (attemptActions s.bus 0 a v) = e ∧
      Scanned s.bus b (attemptActions s.bus 0 a v) s.bus.pins.rst (ir5 0x0E#32) s.bus.tapSel := by
  obtain ⟨e', he, hd, hw, hee⟩ := programAttempt_some h
  obtain ⟨b, poll, step, h1, hat, ht, hp, hb⟩ := programOnce a v s.tried e' he
  have hbus : s.tried.bus = s.bus := rfl
  have hinj : s.tried.injCount = s.injCount := rfl
  rw [hbus] at hb hp ht
  rw [hbus, hinj, hd, if_pos rfl, hw] at h1
  refine ⟨b, poll, step, ?_, hat, (ht hd).trans hw, hp.trans hee, hb⟩
  rw [programAttempts_succ, h1]
  simp only [Ran.andThen, wired_poll, hat]
  cases evalNvmStatus st <;> rfl

/-- One attempt whose drain meets no handshake bit (R182, R221): never retried. -/
theorem programAttempts_noHandshake (a v : Word) (n : Nat) (s : State) (e : Nat)
    (he : injectionsEnd s.bus 35 0 = some e) (hd : drainPracc s.bus e = false) :
    ∃ b poll step, programAttempts a v (n + 1) s =
        .raised ⟨.protocolFraming, 0#32, drainWord s.bus e, 1#32⟩
          (s.wired b poll { value := drainWord s.bus e, pracc := false } (s.injCount + 35#32) step) ∧
      Scanned s.bus b (attemptActions s.bus 0 a v) s.bus.pins.rst (ir5 0x0E#32) s.bus.tapSel := by
  obtain ⟨b, poll, step, h1, _, _, _, hb⟩ := programOnce a v s.tried e he
  have hbus : s.tried.bus = s.bus := rfl
  rw [hbus, hd, if_neg (by decide)] at h1
  refine ⟨b, poll, step, ?_, hb⟩
  rw [programAttempts_succ, h1]
  rfl

/-- One attempt of which `k` words are serviced and the next one is not (R162, R221): never retried. -/
theorem programAttempts_timeout (a v : Word) (n : Nat) (s : State) (k : Nat) (w : Word)
    (hk : (dlWords 0#32 v ++ foWords 0x1#32 a 0#32)[k]? = some w) (e : Nat)
    (he : injectionsEnd s.bus k 0 = some e) (hn : readyControlPoll s.bus e = none) :
    ∃ b poll step, programAttempts a v (n + 1) s =
        .raised ⟨.busTimeout, w, controlWord s.bus e 99, 0x0004C000#32⟩
          (s.wired b poll { value := controlWord s.bus e 99, pracc := false }
            (s.injCount + BitVec.ofNat 32 k) step) ∧
      Scanned s.bus b
        (injectionsActions s.bus 0 ((dlWords 0#32 v ++ foWords 0x1#32 a 0#32).take k) ++ injectionTimeout)
        s.bus.pins.rst (ir5 0x0A#32) s.bus.tapSel := by
  have hbus : s.tried.bus = s.bus := rfl
  rw [programAttempts_succ]
  by_cases hk5 : k < 5
  · rw [List.getElem?_append_left (by simpa [dlWords] using hk5)] at hk
    obtain ⟨b, poll, step, h1, _, hb⟩ :=
      injectTemplate_timeout _ lengthDl _ (dlWords_eq 0#32 v) k w hk s.tried e he hn
    refine ⟨b, poll, step, ?_, ?_⟩
    · rw [downloadData, h1]; rfl
    · rw [List.take_append_of_le_length (by simp [dlWords]; omega)]; exact hb
  · obtain ⟨m, rfl⟩ : ∃ m, k = 5 + m := ⟨k - 5, by omega⟩
    have hl : (dlWords 0#32 v).length = 5 := rfl
    rw [List.getElem?_append_right (by omega), hl, Nat.add_sub_cancel_left] at hk
    obtain ⟨e1, h5, hm⟩ := injectionsEnd_split (m := 5) (n := m) he
    obtain ⟨b1, poll1, value1, step1, he1, _, hp1, hb1⟩ := downloadData_serviced 0#32 v s.tried e1 h5
    rw [hbus] at hb1 hp1
    have ha : ∀ i, b1.answer i = s.bus.answer (e1 + i) := fun i => by rw [hb1.did.answer, hp1]
    obtain ⟨e2, hm2, hee⟩ := injectionsEnd_some_from (m := m) ha hm
    have ha2 : ∀ i, b1.answer (e2 + i) = s.bus.answer (e + i) := fun i => by
      rw [ha, ← hee, Nat.add_assoc]
    obtain ⟨b, poll, step, h1, _, hb⟩ := injectTemplate_timeout _ lengthFo _ (foWords_eq 0x1#32 a 0#32) m w hk
      (s.tried.wired b1 poll1 { value := value1, pracc := true } (s.tried.injCount + 5#32) step1) e2 hm2
      (by rw [wired_bus, readyControlPoll_shift ha2]; exact hn)
    have hsh : injectionsActions b1 0 ((foWords 0x1#32 a 0#32).take m) =
        injectionsActions s.bus e1 ((foWords 0x1#32 a 0#32).take m) :=
      injectionsActions_shift (fun i => by rw [Nat.zero_add]; exact ha i) _
    rw [wired_bus, hsh, hb1.rst_eq] at hb
    refine ⟨b, poll, step, ?_, ?_⟩
    · have hf : ∀ u, flashOperation 0x1#32 a 0#32 u =
          (injectTemplate (templateFo 0x1#32 a 0#32) lengthFo u).andThen fun _ u =>
            (fastDataDrain u).andThen fun st u => .done st (u.setTmp st) := fun _ => rfl
      have hc : s.injCount + 5#32 + BitVec.ofNat 32 m = s.injCount + BitVec.ofNat 32 (5 + m) := by
        rw [BitVec.add_assoc, BitVec.ofNat_add]
      rw [he1]
      simp only [Ran.andThen, hf, h1, wired_bus, wired_injCount, controlWord_shift ha2, ← hc]
      rfl
    · rw [show (dlWords 0#32 v ++ foWords 0x1#32 a 0#32).take (5 + m) =
          dlWords 0#32 v ++ (foWords 0x1#32 a 0#32).take m
          from List.take_length_add_append (l₁ := dlWords 0#32 v) m,
        injectionsActions_append (dlWords 0#32 v) _ 0 e1 h5, List.append_assoc]
      exact hb1.trans_sel hb

/-- The attempts after some: the same answers, seen from further on. -/
theorem programAttempt_from {b b' : TapSession} {off : Nat} (ha : ∀ k, b'.answer k = b.answer (off + k))
    {st : Word} {e : Nat} (h : programAttempt b off = some (st, e)) :
    ∃ m, programAttempt b' 0 = some (st, m) ∧ off + m = e := by
  obtain ⟨e', he, hd, hw, hee⟩ := programAttempt_some h
  obtain ⟨m, hm, hme⟩ := injectionsEnd_some_from (m := 35) ha he
  have hk : ∀ k, b'.answer (m + k) = b.answer (e' + k) := fun k => by rw [ha, ← hme, Nat.add_assoc]
  refine ⟨m + 87, ?_, by omega⟩
  rw [programAttempt, hm, Option.bind_some, drainPracc_shift hk, drainWord_shift hk, hd, if_pos rfl, hw]

/-- ProgramWord (R221) whose first attempt reads a status word back. -/
theorem programWord_first (a v : Word) (s : State) (st : Word) (e : Nat)
    (h : programAttempt s.bus 0 = some (st, e)) :
    ∃ b poll step, programWord a v s =
        (match evalNvmStatus st with
        | .done => .done (st, 1)
            (s.wired b poll { value := st, pracc := true } (s.injCount + 35#32) step)
        | .unconfirmed => .raised ⟨.busTimeout, a, st, 0#32⟩
            (s.wired b poll { value := st, pracc := true } (s.injCount + 35#32) step)
        | .failed => programAttempts a v 1
            (s.wired b poll { value := st, pracc := true } (s.injCount + 35#32) step)) ∧
      poll.attempt = 1 ∧ actionPulses (attemptActions s.bus 0 a v) = e ∧
      Scanned s.bus b (attemptActions s.bus 0 a v) s.bus.pins.rst (ir5 0x0E#32) s.bus.tapSel := by
  obtain ⟨b, poll, step, h1, hat, _, hp, hb⟩ := programAttempts_once a v 1
    ({ s with poll := { s.poll with attempt := 0 } } : State) st e h
  refine ⟨b, poll, step, ?_, hat, hp, hb⟩
  rw [programWord, show Param.nvmRetryMax + 1 = 1 + 1 from rfl]
  exact h1

/-- ProgramWord (R221) whose first attempt failed and whose second reads a status word back. -/
theorem programWord_second (a v : Word) (s : State) (st st' : Word) (e e' : Nat)
    (h : programAttempt s.bus 0 = some (st, e)) (hf : evalNvmStatus st = .failed)
    (h' : programAttempt s.bus e = some (st', e')) :
    ∃ b poll step, programWord a v s =
        (match evalNvmStatus st' with
        | .done => .done (st', 2)
            (s.wired b poll { value := st', pracc := true } (s.injCount + 70#32) step)
        | .unconfirmed => .raised ⟨.busTimeout, a, st', 0#32⟩
            (s.wired b poll { value := st', pracc := true } (s.injCount + 70#32) step)
        | .failed => .raised ⟨.nvmControllerError, a, st', 0#32⟩
            (s.wired b poll { value := st', pracc := true } (s.injCount + 70#32) step)) ∧
      Scanned s.bus b (attemptActions s.bus 0 a v ++ attemptActions s.bus e a v) s.bus.pins.rst
        (ir5 0x0E#32) s.bus.tapSel := by
  obtain ⟨b, poll, step, h1, hat, hp, hb⟩ := programWord_first a v s st e h
  have ha : ∀ k, b.answer k = s.bus.answer (e + k) := fun k => by rw [hb.did.answer, hp]
  obtain ⟨m, hm, _⟩ := programAttempt_from ha h'
  obtain ⟨b2, poll2, step2, h2, hat2, ht2, _, hb2⟩ := programAttempts_once a v 0
    (s.wired b poll { value := st, pracc := true } (s.injCount + 35#32) step) st' m hm
  have hacts : attemptActions b 0 a v = attemptActions s.bus e a v := by
    have h0 : ∀ k, b.answer (0 + k) = s.bus.answer (e + k) := fun k => by rw [Nat.zero_add]; exact ha k
    rw [attemptActions, attemptActions, injectionsActions_shift h0]
  rw [wired_bus, hacts, hb.rst_eq] at hb2
  refine ⟨b2, poll2, step2, ?_, hb.trans_sel hb2⟩
  have hc : s.injCount + 35#32 + 35#32 = s.injCount + 70#32 := BitVec.add_assoc _ _ _
  rw [h1, hf]
  simp only [h2, wired_wired, wired_injCount, wired_poll, hc, hat]
  cases evalNvmStatus st' with
  | done => rfl
  | unconfirmed => rfl
  | failed => simp only [programAttempts, wired_poll, ht2]

/-! ### Identification (R210) -/

theorem identifyIn_serviced (catalog : List DeviceRecord) (s : State) (e : Nat)
    (he : injectionsEnd s.bus 5 0 = some e) (hd : drainPracc s.bus e = true) :
    ∃ b poll step,
      identifyIn catalog s =
        (match scanCatalog (drainWord s.bus e &&& 0x0FFFFFFF#32) 0 catalog with
        | none => .raised ⟨.deviceUnidentified, 0xBF80F220#32, drainWord s.bus e, 0#32⟩
            (({ s with ident := { s.ident with valid := false } } : State).wired b poll
              { value := drainWord s.bus e, pracc := true } (s.injCount + 5#32) step)
        | some (i, r) => .done i
            (({ s with ident := identOf (drainWord s.bus e &&& 0x0FFFFFFF#32) r } : State).wired b poll
              { value := drainWord s.bus e, pracc := true } (s.injCount + 5#32) step)) ∧
      Scanned s.bus b (injectionsActions s.bus 0 (rdWords 0xBF80F220#32) ++ drainActions) s.bus.pins.rst
        (ir5 0x0E#32) s.bus.tapSel := by
  obtain ⟨b, poll, step, h1, _, _, hb⟩ := readFlashData_serviced 0xBF80F220#32
    { s with ident := { s.ident with valid := false } } e he
  refine ⟨b, poll, step, ?_, hb⟩
  simp only [hd, if_true] at h1
  rw [identifyIn, show Param.devidAddr = 0xBF80F220#32 from rfl,
    show Param.idMask = 0x0FFFFFFF#32 from rfl, h1]
  simp only [Ran.andThen]
  cases scanCatalog (drainWord s.bus e &&& 0x0FFFFFFF#32) 0 catalog <;> rfl

/-- The catalog of R11 holds one identifier. -/
theorem scanCatalog_fixed (id : Word) :
    scanCatalog id 0 Param.catalog =
      if id = 0x04A01053#32 then
        some (0, ⟨0x04A01053#32, Param.name210F016B, 32#16, 3#16, 16#16⟩)
      else none := by
  by_cases h : id = 0x04A01053#32
  · subst h; rfl
  · have h' : ¬ (0x04A01053#32 = id) := fun e => h e.symm
    simp [Param.catalog, scanCatalog, h, h']

end Sys2Proof.Machine
end

