-- ==== Sys2Proof/Laws/Closed.lean ====
section
/-! SUPPORT. What every procedure keeps, whatever the target answers and however it ends: a property of the
TAP session that the scans keep, and the host's side of the state. -/

namespace Sys2Proof.Machine

/-- The state a procedure ends in, with a result or an error. -/
def Ran.final {α : Type} : Ran α → State
  | .done _ s => s
  | .raised _ s => s

theorem Ran.final_andThen {α β : Type} {P : State → Prop} {r : Ran α} {f : α → State → Ran β}
    (hr : P r.final) (hf : ∀ a s, P s → P (f a s).final) : P (r.andThen f).final := by
  cases r with
  | done a s => exact hf a s hr
  | raised e s => exact hr

/-- A property of the session that the scans of the injector and of the fast-data drain keep. -/
structure WireClosed (P : TapSession → Prop) : Prop where
  data    : ∀ b, P b → P (sendCommand 5 0x09#32 b)
  control : ∀ b, P b → P (sendCommand 5 0x0A#32 b)
  fast    : ∀ b, P b → P (sendCommand 5 0x0E#32 b)
  scan    : ∀ v b, P b → P (dataScan32 v b)
  drain   : ∀ b, P b → P (fastDataScan 0#32 b)

/-- A property of the session that every pulse keeps, and every update beside the pulses. -/
structure PulseClosed (P : TapSession → Prop) : Prop where
  pulse  : ∀ tms tdi b, P b → P (bitXfer tms tdi b)
  shift  : ∀ r b, P b → P (b.setShift r)
  select : ∀ bits op b, P b → P (selectIr bits op b)
  sleep  : ∀ ms b, ms ≠ 0 → P b → P (b.emit (.sleep ms))
  rst    : ∀ a b, P b → P (driveRst a b)

section pulseClosed
variable {P : TapSession → Prop} (h : PulseClosed P)
include h

theorem PulseClosed.runPulses (ps : List Pulse) (b : TapSession) (hb : P b) : P (runPulses ps b) := by
  induction ps generalizing b with
  | nil => exact hb
  | cons p ps ih => exact ih _ (h.pulse _ _ _ hb)

theorem PulseClosed.setMode (bits : Nat) (v : Word) (b : TapSession) (hb : P b) : P (setMode bits v b).2 := by
  by_cases h0 : bits = 0
  · subst h0; exact hb
  · rw [setMode_eq h0]; exact h.shift _ _ (h.runPulses _ _ hb)

theorem PulseClosed.sendCommand (bits : Nat) (op : Word) (b : TapSession) (hb : P b) :
    P (sendCommand bits op b) := by
  by_cases h0 : bits = 0
  · subst h0; exact hb
  · rw [sendCommand_eq h0]; exact h.select _ _ _ (h.shift _ _ (h.runPulses _ _ hb))

theorem PulseClosed.xferData (bits : Nat) (v : Word) (b : TapSession) (hb : P b) :
    P (xferData bits v b).2 := by
  by_cases h0 : bits = 0
  · subst h0; exact hb
  · rw [xferData_eq h0]; exact h.shift _ _ (h.runPulses _ _ hb)

theorem PulseClosed.fastDataScan (v : Word) (b : TapSession) (hb : P b) : P (fastDataScan v b) := by
  have e : Machine.fastDataScan v b = (Machine.runPulses (fdFrame v) b).setShift
      (scanRegs v (b.answerWord 4 32) 32) := by
    rw [Machine.fastDataScan]
    generalize hx : fastScan v b = x
    have := (fastScan_eq v b).symm.trans hx
    subst this
    rfl
  rw [e]; exact h.shift _ _ (h.runPulses _ _ hb)

theorem PulseClosed.tapReset (b : TapSession) (hb : P b) : P (tapReset b) := h.setMode _ _ _ hb

theorem PulseClosed.wire : WireClosed P where
  data := fun b hb => h.sendCommand _ _ b hb
  control := fun b hb => h.sendCommand _ _ b hb
  fast := fun b hb => h.sendCommand _ _ b hb
  scan := fun v b hb => h.xferData _ v b hb
  drain := fun b hb => h.fastDataScan _ b hb

end pulseClosed

/-- The session has the property and the host's side is as it was. -/
def Kept (P : TapSession → Prop) (h : HostSide) (s : State) : Prop := P s.bus ∧ s.hostSide = h

section wireClosed
variable {P : TapSession → Prop} {h : HostSide} (hP : WireClosed P)
include hP

theorem kept_controlPolls (n : Nat) (s : State) (hs : Kept P h s) : Kept P h (controlPolls n s).2 := by
  induction n generalizing s with
  | zero => exact hs
  | succ n ih =>
    have h1 : Kept P h (controlPoll s) := by
      refine ⟨?_, (controlPoll_hostSide s).trans hs.2⟩
      rw [controlPoll_eq]; exact hP.scan _ _ hs.1
    rw [controlPolls]
    split
    · exact h1
    · refine ih _ ?_
      split
      · exact h1
      · rw [sleep_praccPollDelay]; exact h1

theorem kept_xferInstruction (w : Word) (s : State) (hs : Kept P h s) : Kept P h (xferInstruction w s) := by
  have h1 := kept_controlPolls hP Param.praccPollMax
    (s.onBus (sendCommand Param.irBits Param.etapControl)).clearPolls ⟨hP.control _ hs.1, hs.2⟩
  rw [xferInstruction]
  split
  · exact ⟨hP.scan _ _ (hP.control _ (hP.scan _ _ (hP.data _ h1.1))), h1.2⟩
  · exact h1

theorem kept_inject (w : Word) (s : State) (hs : Kept P h s) : Kept P h (inject w s).final := by
  have h1 := kept_xferInstruction hP w s hs
  rw [inject]
  split <;> exact h1

theorem kept_injectWords (ws : List Word) (s : State) (hs : Kept P h s) :
    Kept P h (injectWords ws s).final := by
  induction ws generalizing s with
  | nil => exact hs
  | cons w ws ih =>
    rw [injectWords]
    exact Ran.final_andThen (P := Kept P h) (kept_inject hP w s hs) fun _ s hs => ih s hs

omit hP in
theorem kept_checkCount (c : Word) (n : Nat) (s : State) (hs : Kept P h s) :
    Kept P h (checkCount c n s).final := by
  rw [checkCount]; split <;> exact hs

theorem kept_injectTemplate (tm : List Instr) (n : Nat) (s : State) (hs : Kept P h s) :
    Kept P h (injectTemplate tm n s).final :=
  Ran.final_andThen (P := Kept P h) (kept_injectWords hP _ s hs) fun _ s hs => kept_checkCount _ n s hs

theorem kept_downloadData (r d : Word) (s : State) (hs : Kept P h s) :
    Kept P h (downloadData r d s).final := kept_injectTemplate hP _ _ s hs

theorem kept_fastDataDrain (s : State) (hs : Kept P h s) : Kept P h (fastDataDrain s).final := by
  have h1 : Kept P h (xferFastData 0#32 (xferFastData 0#32
      (s.call (sendCommand Param.irBits Param.etapFastdata))).tick).tick :=
    ⟨hP.drain _ (hP.drain _ (hP.fast _ hs.1)), hs.2⟩
  rw [fastDataDrain]
  split <;> exact h1

theorem kept_flashOperation (op fa ra : Word) (s : State) (hs : Kept P h s) :
    Kept P h (flashOperation op fa ra s).final :=
  Ran.final_andThen (P := Kept P h) (kept_injectTemplate hP _ _ s hs) fun _ s hs =>
    Ran.final_andThen (P := Kept P h) (kept_fastDataDrain hP s hs) fun _ _ hs => hs

theorem kept_readFlashData (a : Word) (s : State) (hs : Kept P h s) :
    Kept P h (readFlashData a s).final :=
  Ran.final_andThen (P := Kept P h) (kept_injectTemplate hP _ _ s hs) fun _ s hs =>
    kept_fastDataDrain hP s hs

theorem kept_programAttempts (a v : Word) (n : Nat) (s : State) (hs : Kept P h s) :
    Kept P h (programAttempts a v n s).final := by
  induction n generalizing s with
  | zero => exact hs
  | succ n ih =>
    rw [programAttempts]
    refine Ran.final_andThen (P := Kept P h) (kept_downloadData hP _ _ _ hs) fun _ s hs =>
      Ran.final_andThen (P := Kept P h) (kept_flashOperation hP _ _ _ s hs) fun st s hs => ?_
    split
    · exact hs
    · exact hs
    · exact ih s hs

theorem kept_programWord (a v : Word) (s : State) (hs : Kept P h s) :
    Kept P h (programWord a v s).final := kept_programAttempts hP a v _ _ hs

end wireClosed

section pulseState
variable {P : TapSession → Prop} {h : HostSide} (hP : PulseClosed P)
include hP

theorem kept_sleep (ms : Nat) (s : State) (hs : Kept P h s) : Kept P h (s.sleep ms) := by
  rw [State.sleep]; split
  · exact hs
  · exact ⟨hP.sleep _ _ ‹_› hs.1, hs.2⟩

theorem kept_setRst (a : Bool) (s : State) (hs : Kept P h s) : Kept P h (s.setRst a) := by
  rw [setRst_eq]; exact ⟨hP.rst _ _ hs.1, hs.2⟩

theorem kept_statusPolls (n : Nat) (s : State) (hs : Kept P h s) : Kept P h (statusPolls n s).final := by
  induction n generalizing s with
  | zero => exact hs
  | succ n ih =>
    have h1 : Kept P h (statusScan s) := by
      refine ⟨?_, (statusScan_hostSide s).trans hs.2⟩
      rw [statusScan_eq]; exact hP.xferData _ _ _ hs.1
    rw [statusPolls]
    split
    · exact h1
    · refine ih _ ?_
      split
      · exact h1
      · exact kept_sleep hP _ _ h1

theorem kept_statusPoll (s : State) (hs : Kept P h s) : Kept P h (statusPoll s).final :=
  kept_statusPolls hP _ _ hs

theorem kept_erase (s : State) (hs : Kept P h s) : Kept P h (erase s).final :=
  Ran.final_andThen (P := Kept P h)
    (kept_statusPoll hP (eraseSent s)
      ⟨hP.xferData 8 0xFC#32 _ (hP.sendCommand 5 0x07#32 _ (hP.sendCommand 5 0x04#32 _ hs.1)), hs.2⟩)
    fun _ t ht => ⟨hP.sendCommand 5 0x05#32 t.bus ht.1, ht.2⟩

end pulseState

end Sys2Proof.Machine
end

