-- ==== Sys2Proof/Laws/Accept.lean ====
section
/-! SUPPORT. The checks of the dispatcher (R212) in the terms of Safety.lean: the address and width checks in
numbers (R65, R69, R231), and for every host command which check it makes. -/

namespace Sys2Proof.Machine

theorem aligned4_eq (v : Word) : Bits.aligned4 v = decide (v.toNat % 4 = 0) := by
  have h : (v &&& 3#32).toNat = v.toNat % 4 := by
    rw [BitVec.toNat_and, show (3#32).toNat = 2 ^ 2 - 1 from rfl, Nat.and_two_pow_sub_one_eq_mod]
  rw [Bits.aligned4, Bool.eq_iff_iff, beq_iff_eq, decide_eq_true_iff, ← h, ← BitVec.toNat_inj]
  rfl

theorem ramAddrOk_eq (v : Word) : ramAddrOk v = decide (v.toNat % 4 = 0 ∧ v.toNat ≤ 0x7FFC) := by
  rw [ramAddrOk, aligned4_eq, Bool.eq_iff_iff]
  simp [BitVec.le_def, Param.ramAddrMax]

theorem widthOk_eq (v : Word) : widthOk v = decide (v.toNat ≤ 32) := rfl

section ident
variable (d : Ident)

theorem rowBytes_toNat : d.rowBytes.toNat = d.rowWords.toNat * 4 := by
  have := d.rowWords.isLt
  simp [Ident.rowBytes, Param.wordBytes]; omega

theorem pageBytes_toNat : d.pageBytes.toNat = d.rowWords.toNat * 4 * 8 := by
  have := d.rowWords.isLt
  simp [Ident.pageBytes, Param.wordBytes, Param.pageRows]; omega

theorem pfmBytes_toNat : d.pfmBytes.toNat = d.pfmKB.toNat * 1024 := by
  have := d.pfmKB.isLt
  simp [Ident.pfmBytes, Param.kb]; omega

theorem bfmBytes_toNat : d.bfmBytes.toNat = d.bfmKB.toNat * 1024 := by
  have := d.bfmKB.isLt
  simp [Ident.bfmBytes, Param.kb]; omega

theorem pfmLast_toNat : d.pfmLast.toNat = 0x1D000000 + d.pfmKB.toNat * 1024 - 1 := by
  have := d.pfmKB.isLt
  have := pfmBytes_toNat d
  rw [Ident.pfmLast, Param.pfmBase]; bv_omega

theorem bfmLast_toNat : d.bfmLast.toNat = 0x1FC00000 + d.bfmKB.toNat * 1024 - 1 := by
  have := d.bfmKB.isLt
  have := bfmBytes_toNat d
  rw [Ident.bfmLast, Param.bfmBase]; bv_omega

theorem cfgFirst_toNat : d.cfgFirst.toNat = 0x1FC00000 + d.bfmKB.toNat * 1024 - 16 := by
  have := d.bfmKB.isLt
  have := bfmLast_toNat d
  rw [Ident.cfgFirst, Param.cfgBytes]; bv_omega

theorem inRange_eq (fa g : Word) : d.inRange fa g = inOneWindow d fa.toNat g.toNat := by
  rw [Ident.inRange, inOneWindow, pfmLast_toNat, bfmLast_toNat]; rfl

theorem granuleOk_eq (fa g : Word) : d.granuleOk fa g = onGranule d fa.toNat g.toNat := by
  rw [Ident.granuleOk, onGranule, inRange_eq, Bool.eq_iff_iff]
  simp [← BitVec.toNat_inj]

theorem flashOperandsOk_eq (op fa ra : Word) :
    (opCodeOk op && ramAddrOk ra && d.flashAddrOk op fa) =
      flashOperandsOk d op.toNat fa.toNat ra.toNat := by
  unfold flashOperandsOk
  rw [ramAddrOk_eq, Bool.and_comm (opCodeOk op), Bool.and_assoc]
  refine congrArg (_ && ·) ?_
  rw [Ident.flashAddrOk, granuleOk_eq, granuleOk_eq, inRange_eq, aligned4_eq, rowBytes_toNat,
    pageBytes_toNat]
  by_cases h1 : op = 0x1#32
  · subst h1; rfl
  by_cases h3 : op = 0x3#32
  · subst h3; rfl
  by_cases h4 : op = 0x4#32
  · subst h4; rfl
  by_cases h5 : op = 0x5#32
  · subst h5; rfl
  · have e : opCodeOk op = false := by
      simp [opCodeOk, Param.nvmopWriteWord, Param.nvmopWriteRow, Param.nvmopErasePage,
        Param.nvmopEraseAll, h1, h3, h4, h5]
    rw [e, Bool.false_and]
    rw [← BitVec.toNat_inj] at h1 h3 h4 h5
    split
    · exact absurd ‹_› h1
    · exact absurd ‹_› h3
    · exact absurd ‹_› h4
    · exact absurd ‹_› h5
    · rfl

end ident

/-- What the dispatcher checks for a host command, in the terms of Safety.lean (R212). -/
def Checks (i : Instr) (c : Byte) (op : Operation) (argsOk : Bool) (s : State) : Prop :=
  passesFatal c = passesLatch i ∧ legalNow op s = allowedNow i s ∧ argsOk = operandsOk i s

section checks
variable {i : Instr} {c : Byte} {op : Operation} {argsOk : Bool} {s : State} (h : Checks i c op argsOk s)
include h

theorem Checks.accepted_iff : firstRefusal c op argsOk s = none ↔ Accepted i s := by
  obtain ⟨h1, h2, h3⟩ := h
  rw [firstRefusal, h1, h2, h3, Accepted]
  cases s.fatal <;> cases passesLatch i <;> cases allowedNow i s <;> cases operandsOk i s <;> simp

theorem Checks.accept (ha : Accepted i s) (body : State → Ran (Word × Word)) :
    runCommand c op argsOk body s = finish c (body (s.accepted c)) :=
  runCommand_accepted (h.accepted_iff.mpr ha)

theorem Checks.sessionFatal (hf : s.fatal = true) (hp : passesLatch i = false)
    (body : State → Ran (Word × Word)) : runCommand c op argsOk body s = refusedState 10#32 s := by
  refine runCommand_refused (k := .sessionFatal) ?_
  rw [firstRefusal, h.1, hf, hp]; rfl

theorem Checks.illegalState (hf : s.fatal = true → passesLatch i = true) (hl : allowedNow i s = false)
    (body : State → Ran (Word × Word)) : runCommand c op argsOk body s = refusedState 8#32 s := by
  refine runCommand_refused (k := .illegalState) ?_
  rw [firstRefusal, h.1, h.2.1, hl]
  cases hs : s.fatal <;> simp_all

theorem Checks.badArgument (hf : s.fatal = true → passesLatch i = true) (hl : allowedNow i s = true)
    (ha : operandsOk i s = false) (body : State → Ran (Word × Word)) :
    runCommand c op argsOk body s = refusedState 9#32 s := by
  refine runCommand_refused (k := .badArgument) ?_
  rw [firstRefusal, h.1, h.2.1, h.2.2, hl, ha]
  cases hs : s.fatal <;> simp_all

/-- A command that is not accepted is refused. -/
theorem Checks.refused (ha : ¬ Accepted i s) (body : State → Ran (Word × Word)) :
    ∃ k : RefuseKind, runCommand c op argsOk body s = refusedState (k.toCode.setWidth 32) s := by
  cases hr : firstRefusal c op argsOk s with
  | none => exact absurd (h.accepted_iff.mp hr) ha
  | some k => exact ⟨k, runCommand_refused hr⟩

end checks

/-! ### The checks of each host command (R213 to R230) -/

section each
variable (s : State)

theorem legalNow_debug {op : Operation} (hl : legalIn op s.dev = (s.dev == .debugMode))
    (hn : needsIdent op = false) : legalNow op s = decide (s.dev = .debugMode) := by
  rw [legalNow, hl, hn]; cases s.dev <;> rfl

theorem legalNow_identified {op : Operation} (hl : legalIn op s.dev = (s.dev == .debugMode))
    (hn : needsIdent op = true) : legalNow op s = (decide (s.dev = .debugMode) && s.ident.valid) := by
  rw [legalNow, hl, hn]; cases s.dev <;> simp

theorem checks_nop : Checks .nop 0x00#8 .session true s := ⟨rfl, rfl, rfl⟩
theorem checks_clearError : Checks .clearError 0x0E#8 .session true s := ⟨rfl, rfl, rfl⟩
theorem checks_waitReady : Checks .waitReady 0x01#8 .checkStatus true s := ⟨rfl, rfl, rfl⟩
theorem checks_enterPgmMode : Checks .enterPgmMode 0x02#8 .enterPgmMode true s :=
  ⟨rfl, by rw [legalNow, legalIn, allowedNow]; cases s.dev <;> rfl, rfl⟩
theorem checks_exitPgmMode : Checks .exitPgmMode 0x03#8 .exitPgmMode true s :=
  ⟨rfl, legalNow_debug s rfl rfl, rfl⟩
theorem checks_eraseAll : Checks .eraseAll 0x04#8 .erase true s := ⟨rfl, legalNow_identified s rfl rfl, rfl⟩
theorem checks_assertTargetReset : Checks .assertTargetReset 0x05#8 .assertTargetReset true s :=
  ⟨rfl, rfl, rfl⟩
theorem checks_identify : Checks .identify 0x06#8 .identify true s := ⟨rfl, legalNow_debug s rfl rfl, rfl⟩
theorem checks_programWord : Checks .programWord 0x07#8 .flashOperation
    (Bits.aligned4 s.arg0 && s.ident.inRange s.arg0 Param.wordBytes) s :=
  ⟨rfl, legalNow_identified s rfl rfl, by rw [aligned4_eq, inRange_eq]; rfl⟩
theorem checks_readWord : Checks .readWord 0x08#8 .readFlashData (Bits.aligned4 s.arg0) s :=
  ⟨rfl, legalNow_debug s rfl rfl, aligned4_eq _⟩
theorem checks_verifyWord : Checks .verifyWord 0x09#8 .readFlashData (Bits.aligned4 s.arg0) s :=
  ⟨rfl, legalNow_debug s rfl rfl, aligned4_eq _⟩
theorem checks_downloadData : Checks .downloadData 0x0A#8 .downloadData (ramAddrOk s.arg0) s :=
  ⟨rfl, legalNow_debug s rfl rfl, ramAddrOk_eq _⟩
theorem checks_flashOperation : Checks .flashOperation 0x0B#8 .flashOperation
    (opCodeOk s.arg0 && ramAddrOk s.arg2 && s.ident.flashAddrOk s.arg0 s.arg1) s :=
  ⟨rfl, legalNow_identified s rfl rfl, flashOperandsOk_eq _ _ _ _⟩
theorem checks_rawSetMode : Checks .rawSetMode 0x10#8 .rawTap (widthOk s.arg0) s := ⟨rfl, rfl, rfl⟩
theorem checks_rawSendCommand : Checks .rawSendCommand 0x11#8 .rawTap (widthOk s.arg0) s := ⟨rfl, rfl, rfl⟩
theorem checks_rawXferData : Checks .rawXferData 0x12#8 .rawTap (widthOk s.arg0) s := ⟨rfl, rfl, rfl⟩
theorem checks_rawXferFastData : Checks .rawXferFastData 0x13#8 .rawTap true s := ⟨rfl, rfl, rfl⟩
theorem checks_rawXferInstruction : Checks .rawXferInstruction 0x14#8 .rawTap true s := ⟨rfl, rfl, rfl⟩

/-- Every host command is `runCommand` of its opcode with the checks of R212. -/
theorem exec_command (i : Instr) (c : Byte) (hi : hostOpcode i = some c) :
    ∃ op argsOk body, exec i s = .next (runCommand c op argsOk body s) ∧ Checks i c op argsOk s := by
  cases i <;> simp only [hostOpcode, Option.some.injEq, reduceCtorEq] at hi <;> subst hi
  · exact ⟨_, _, _, rfl, checks_nop s⟩
  · exact ⟨_, _, _, rfl, checks_waitReady s⟩
  · exact ⟨_, _, _, rfl, checks_enterPgmMode s⟩
  · exact ⟨_, _, _, rfl, checks_exitPgmMode s⟩
  · exact ⟨_, _, _, rfl, checks_eraseAll s⟩
  · exact ⟨_, _, _, rfl, checks_assertTargetReset s⟩
  · exact ⟨_, _, _, rfl, checks_identify s⟩
  · exact ⟨_, _, _, rfl, checks_programWord s⟩
  · exact ⟨_, _, _, rfl, checks_readWord s⟩
  · exact ⟨_, _, _, rfl, checks_verifyWord s⟩
  · exact ⟨_, _, _, rfl, checks_downloadData s⟩
  · exact ⟨_, _, _, rfl, checks_flashOperation s⟩
  · exact ⟨_, _, _, rfl, checks_clearError s⟩
  · exact ⟨_, _, _, rfl, checks_rawSetMode s⟩
  · exact ⟨_, _, _, rfl, checks_rawSendCommand s⟩
  · exact ⟨_, _, _, rfl, checks_rawXferData s⟩
  · exact ⟨_, _, _, rfl, checks_rawXferFastData s⟩
  · exact ⟨_, _, _, rfl, checks_rawXferInstruction s⟩

end each

/-! ### How an accepted command ends on the wire -/

section ends
variable {s : State} {c : Byte} {b : TapSession} {poll : PollRegs} {res : FastData} {count : Word}
  {step : Nat} {r0 r1 : Word}

theorem okEnd_wired :
    OkEnd s (respond 0#4 r0 r1 ((s.accepted c).wired b poll res count step)) r0 r1 count :=
  ⟨⟨rfl, rfl, rfl, rfl, rfl⟩, ⟨rfl, rfl, rfl, rfl, rfl⟩, ⟨rfl, rfl⟩, rfl⟩

theorem okEnd_wired_dev {d : DevState} :
    OkEnd s (respond 0#4 r0 r1 (((s.accepted c).wired b poll res count step).setDev d)) r0 r1 count :=
  ⟨⟨rfl, rfl, rfl, rfl, rfl⟩, ⟨rfl, rfl, rfl, rfl, rfl⟩, ⟨rfl, rfl⟩, rfl⟩

theorem errorEnd_wired {e : RaiseInfo} :
    ErrorEnd s (raise c e ((s.accepted c).wired b poll res count step)) e.kind.toCode c e.addr e.obs e.exp
      count :=
  ⟨raised_raise _ _ _,
    ⟨raise_arg0 _ _ _, raise_arg1 _ _ _, raise_arg2 _ _ _, raise_requests _ _ _,
      raise_catalog _ _ _⟩, raise_injCount _ _ _⟩

end ends

/-! ### The verdict on a status word (R49, R181) -/

theorem evalNvmStatus_done {st : Word} (h : st &&& 0xB000#32 = 0#32) : evalNvmStatus st = .done := by
  have h1 : st &&& 0x8000#32 = 0#32 := by
    simpa [BitVec.and_assoc] using congrArg (· &&& 0x8000#32) h
  have h2 : st &&& 0x3000#32 = 0#32 := by
    simpa [BitVec.and_assoc] using congrArg (· &&& 0x3000#32) h
  simp [evalNvmStatus, Param.nvmWr, Param.nvmErrMask, h1, h2]

theorem evalNvmStatus_failed {st : Word} (h : st &&& 0x8000#32 = 0#32) (h2 : st &&& 0x3000#32 ≠ 0#32) :
    evalNvmStatus st = .failed := by
  simp [evalNvmStatus, Param.nvmWr, Param.nvmErrMask, h, h2]

theorem evalNvmStatus_unconfirmed {st : Word} :
    evalNvmStatus st = .unconfirmed ↔ st &&& 0x8000#32 ≠ 0#32 := by
  by_cases h : st &&& 0x8000#32 = 0#32
  · simp only [evalNvmStatus, Param.nvmWr, h, ne_eq, not_true_eq_false, if_false, iff_false]
    split <;> simp
  · simp [evalNvmStatus, Param.nvmWr, h]

end Sys2Proof.Machine
end

