-- ==== Sys2Proof/Laws/Answers.lean ====
section
/-! SUPPORT. What the poll and injection timelines of Safety.lean are on answers laid out in runs: all ready
at once, ready on the last poll, never ready. -/

namespace Sys2Proof.Machine

/-- Inside a run of one answer. -/
theorem answer_run {b : TapSession} {n : Nat} {c : Bool} {rest : List Bool}
    (h : b.tdoIn = List.replicate n c ++ rest) {k : Nat} (hk : k < n) : b.answer k = c := by
  unfold TapSession.answer
  rw [h, List.getD_eq_getElem?_getD, List.getElem?_append_left (by simpa using hk)]
  simp [hk]

/-- The session once `pre` is consumed. -/
def later (b : TapSession) (rest : List Bool) (n : Nat) : TapSession :=
  { b with tdoIn := rest, samples := b.samples + n }

/-- Past `pre` the answers are those of `rest`. -/
theorem answer_later {b : TapSession} {pre rest : List Bool} (h : b.tdoIn = pre ++ rest) {n : Nat}
    (hn : pre.length = n) (k : Nat) : (later b rest n).answer k = b.answer (n + k) :=
  answer_drop (by rw [h, ← hn]; simp [later]) rfl k

/-- An injection whose first Control poll shows the bit. -/
theorem ready_at_once {b : TapSession} {off : Nat} (h : b.answer (off + 32) = true) :
    readyControlPoll b off = some 0 := by
  unfold readyControlPoll
  rw [List.find?_range_eq_some]
  exact ⟨by simpa using h, by simp, fun i hi => absurd hi (by simp)⟩

/-- Injections that are all ready at once. -/
theorem all_ready {b : TapSession} : ∀ (n off : Nat), (∀ k < 144 * n, b.answer (off + k) = true) →
    injectionsEnd b n off = some (off + 144 * n)
  | 0, off, _ => rfl
  | n + 1, off, h => by
    rw [injectionsEnd, injectionEnd, ready_at_once (h 32 (by omega))]
    refine (all_ready n (off + 144 + 37 * 0) fun k hk => ?_).trans (by congr 1; omega)
    rw [← h (144 + k) (by omega)]; congr 1; omega

/-- No Control poll shows the bit. -/
theorem never_ready {b : TapSession} {off : Nat} (h : ∀ k < 3700, b.answer (off + k) = false) :
    readyControlPoll b off = none := by
  unfold readyControlPoll
  simp only [List.find?_eq_none, List.mem_range]
  intro j hj
  rw [show off + 37 * j + 32 = off + (37 * j + 32) by omega, h _ (by omega)]
  simp

/-- The bit shows on the last Control poll only. -/
theorem ready_at_last {b : TapSession} {off : Nat} (h : ∀ k < 3664, b.answer (off + k) = false)
    (ht : b.answer (off + 3695) = true) : readyControlPoll b off = some 99 := by
  unfold readyControlPoll
  rw [List.find?_range_eq_some]
  refine ⟨by simpa [Nat.add_assoc] using ht, by simp, fun i hi => ?_⟩
  rw [show off + 37 * i + 32 = off + (37 * i + 32) by omega, h _ (by omega)]
  simp

/-- The status byte shows ready and not busy on the last poll only. -/
theorem status_at_last {b : TapSession} {off : Nat} (h : ∀ i < 99, b.answer (off + 13 * i + 6) = false)
    (ht : (b.answer (off + 1293) && !b.answer (off + 1292)) = true) : readyStatusPoll b off = some 99 := by
  unfold readyStatusPoll
  rw [List.find?_range_eq_some]
  refine ⟨by simpa [Nat.add_assoc] using ht, by simp, fun i hi => ?_⟩
  rw [h i hi]; simp

/-- No status poll shows ready and not busy. -/
theorem status_never {b : TapSession} {off : Nat}
    (h : ∀ i < 100, (b.answer (off + 13 * i + 6) && !b.answer (off + 13 * i + 5)) = false) :
    readyStatusPoll b off = none := by
  unfold readyStatusPoll
  simp only [List.find?_eq_none, List.mem_range]
  intro j hj
  rw [h j hj]; simp

/-- An attempt of PROGRAM_WORD whose words are all ready at once. -/
theorem attempt_ready {b : TapSession} {off : Nat} {st : Word}
    (h : ∀ k < 5040, b.answer (off + k) = true) (hp : drainPracc b (off + 5040) = true)
    (hw : drainWord b (off + 5040) = st) : programAttempt b off = some (st, off + 5127) := by
  rw [programAttempt, all_ready 35 off (by simpa using h)]
  show (if drainPracc b (off + 5040) then some (drainWord b (off + 5040), off + 5040 + 87) else none) = _
  rw [if_pos hp, hw]
end Sys2Proof.Machine
end

