-- ==== Sys2Proof/Laws/Decode.lean ====
section
/-! SUPPORT. Decoding what the encoder writes: bytes to numbers and back (the numbering of the opcode table),
and one lemma that turns a word's round trip into the bytes'. -/

namespace Sys2Proof

@[simp] theorem bytesLE_length (n v : Nat) : (Bits.bytesLE n v).length = n := by
  induction n generalizing v with
  | zero => rfl
  | succ n ih => simp [Bits.bytesLE, ih]

/-- The bytes of a number below `256 ^ n` stand for it. -/
theorem ofBytesLE_bytesLE (n v : Nat) (h : v < 256 ^ n) : Bits.ofBytesLE (Bits.bytesLE n v) = v := by
  induction n generalizing v with
  | zero => simp [Bits.bytesLE, Bits.ofBytesLE] at *; omega
  | succ n ih =>
    rw [Bits.bytesLE, Bits.ofBytesLE, ih _ (Nat.div_lt_of_lt_mul (by rw [pow_succ] at h; omega))]
    simp only [BitVec.toNat_ofNat]
    omega

/-- `n` bytes stand for a number below `256 ^ n`. -/
theorem ofBytesLE_lt (bs : List Byte) : Bits.ofBytesLE bs < 256 ^ bs.length := by
  induction bs with
  | nil => simp [Bits.ofBytesLE]
  | cons b bs ih =>
    rw [Bits.ofBytesLE, List.length_cons, pow_succ]
    have := b.isLt
    omega

/-- The number bytes stand for has them as its bytes. -/
theorem bytesLE_ofBytesLE (bs : List Byte) : Bits.bytesLE bs.length (Bits.ofBytesLE bs) = bs := by
  induction bs with
  | nil => rfl
  | cons b bs ih =>
    have hb := b.isLt
    rw [List.length_cons, Bits.ofBytesLE, Bits.bytesLE, show (b.toNat + 256 * Bits.ofBytesLE bs) / 256 =
      Bits.ofBytesLE bs by omega, ih]
    congr 1
    apply BitVec.eq_of_toNat_eq
    simp only [BitVec.toNat_ofNat]
    omega

theorem formatBytes_le (f : Format) : formatBytes f ≤ 5 := by cases f <;> simp [formatBytes]

/-- The first word of `encode i ++ rest` is the word of `i`. -/
theorem decode_encode_append (i : Instr) (rest : List Byte)
    (hc : (code i).toNat < 2 ^ (8 * formatBytes (formatOf i))) :
    decode (formatOf i) (encode i ++ rest) =
      match decodeWord (formatOf i) (code i) with
      | .ok j => .ok (j, rest)
      | .error e => .error e := by
  have hl : (encode i).length = formatBytes (formatOf i) := bytesLE_length _ _
  have hw : BitVec.ofNat 40 (Bits.ofBytesLE ((encode i ++ rest).take (formatBytes (formatOf i)))) = code i := by
    rw [← hl, List.take_left, encode, ofBytesLE_bytesLE _ _ (by rwa [pow_mul] at hc), BitVec.ofNat_toNat,
      BitVec.setWidth_eq]
  have hd : (encode i ++ rest).drop (formatBytes (formatOf i)) = rest := by rw [← hl, List.drop_left]
  unfold decode
  rw [if_neg (by rw [List.length_append, hl]; omega)]
  cases hr : decodeWord (formatOf i) (code i) <;> simp only [hw, hd, hr]

/-- A well-formed instruction whose row its word has decodes back, whatever follows. -/
theorem decodes_back {i : Instr} (hc : (code i).toNat < 2 ^ (8 * formatBytes (formatOf i)))
    (hr : decodeRow (formatOf i) (code i) = some i) (rest : List Byte) (hw : i.wellFormed = true) :
    decode (formatOf i) (encode i ++ rest) = .ok (i, rest) := by
  rw [decode_encode_append i rest hc, decodeWord, hr]
  simp [hw]

/-! ### Fields of a word -/

theorem toNat_or_lt {a b : BitVec 40} {n : Nat} (ha : a.toNat < 2 ^ n) (hb : b.toNat < 2 ^ n) :
    (a ||| b).toNat < 2 ^ n := by
  rw [BitVec.toNat_or]; exact Nat.or_lt_two_pow ha hb

theorem toNat_field_lt {w : Nat} (x : BitVec w) (k n : Nat) (h : w + k ≤ n) :
    (x.setWidth 40 <<< k).toNat < 2 ^ n := by
  have hx := x.isLt
  rw [BitVec.toNat_shiftLeft, BitVec.toNat_setWidth, Nat.shiftLeft_eq]
  calc x.toNat % 2 ^ 40 * 2 ^ k % 2 ^ 40 ≤ x.toNat % 2 ^ 40 * 2 ^ k := Nat.mod_le _ _
    _ ≤ x.toNat * 2 ^ k := Nat.mul_le_mul_right _ (Nat.mod_le _ _)
    _ < 2 ^ w * 2 ^ k := Nat.mul_lt_mul_of_pos_right hx (Nat.two_pow_pos k)
    _ = 2 ^ (w + k) := (pow_add 2 w k).symm
    _ ≤ 2 ^ n := Nat.pow_le_pow_right (by decide) h

theorem toNat_low_lt {w : Nat} (x : BitVec w) (n : Nat) (h : w ≤ n) : (x.setWidth 40).toNat < 2 ^ n := by
  have := toNat_field_lt x 0 n h
  rwa [BitVec.shiftLeft_zero] at this

section itype
variable (major : BitVec 40) (rs rt : BitVec 5) (imm : Half)

/-- The word of an I-type form from its major opcode and fields (R105). -/
def itypeWord : BitVec 40 := major ||| imm.setWidth 40 ||| rt.setWidth 40 <<< 16 ||| rs.setWidth 40 <<< 21

theorem getLsbD_itypeWord (k : Nat) : (itypeWord major rs rt imm).getLsbD k =
    (((major.getLsbD k || (decide (k < 40) && imm.getLsbD k)) ||
      (decide (k < 40) && !decide (k < 16) && (decide (k - 16 < 40) && rt.getLsbD (k - 16)))) ||
      (decide (k < 40) && !decide (k < 21) && (decide (k - 21 < 40) && rs.getLsbD (k - 21)))) := by
  simp only [itypeWord, BitVec.getLsbD_or, BitVec.getLsbD_shiftLeft, BitVec.getLsbD_setWidth]

variable {major} (hm : ∀ k, k < 26 → major.getLsbD k = false)
include hm

theorem rtField_itypeWord : rtField (itypeWord major rs rt imm) = rt := by
  apply BitVec.eq_of_getLsbD_eq; intro k hk
  rw [rtField, BitVec.getLsbD_extractLsb', getLsbD_itypeWord, hm (16 + k) (by omega),
    BitVec.getLsbD_of_ge imm (16 + k) (by omega)]
  simp [show 16 + k < 40 by omega, hk, show 16 + k < 21 by omega]
  omega

theorem rsField_itypeWord : rsField (itypeWord major rs rt imm) = rs := by
  apply BitVec.eq_of_getLsbD_eq; intro k hk
  rw [rsField, BitVec.getLsbD_extractLsb', getLsbD_itypeWord, hm (21 + k) (by omega),
    BitVec.getLsbD_of_ge imm (21 + k) (by omega), BitVec.getLsbD_of_ge rt (21 + k - 16) (by omega)]
  simp [show 21 + k < 40 by omega, hk]
  omega

theorem immField_itypeWord : immField (itypeWord major rs rt imm) = imm := by
  apply BitVec.eq_of_getLsbD_eq; intro k hk
  rw [immField, BitVec.getLsbD_extractLsb', getLsbD_itypeWord, hm (0 + k) (by omega)]
  simp [hk, show k < 21 by omega]
  omega

omit hm in
theorem major_itypeWord :
    (itypeWord major rs rt imm).extractLsb' 26 6 = major.extractLsb' 26 6 := by
  apply BitVec.eq_of_getLsbD_eq; intro k hk
  rw [BitVec.getLsbD_extractLsb', getLsbD_itypeWord, BitVec.getLsbD_extractLsb',
    BitVec.getLsbD_of_ge imm (26 + k) (by omega), BitVec.getLsbD_of_ge rt (26 + k - 16) (by omega),
    BitVec.getLsbD_of_ge rs (26 + k - 21) (by omega)]
  simp

omit hm in
theorem itypeWord_lt (h : major.toNat < 2 ^ 32) : (itypeWord major rs rt imm).toNat < 2 ^ 32 :=
  toNat_or_lt (toNat_or_lt (toNat_or_lt h (toNat_low_lt _ _ (by decide)))
    (toNat_field_lt _ _ _ (by decide))) (toNat_field_lt _ _ _ (by decide))

end itype

/-- A template word with its hole filled is read back with that hole (R106). -/
theorem holedWord_filled (word : BitVec 40) (hole : Half) (i : Half → Instr)
    (h : ∀ k, k < 16 → word.getLsbD k = false) (h' : word &&& 0xFFFF0000#40 = word) :
    holedWord (word ||| hole.setWidth 40) word i = some (i hole) := by
  have e1 : (word ||| hole.setWidth 40) &&& 0xFFFF0000#40 = word := by
    apply BitVec.eq_of_getLsbD_eq; intro k hk
    have hw := congrArg (BitVec.getLsbD · k) h'
    simp only [BitVec.getLsbD_and, BitVec.getLsbD_or, BitVec.getLsbD_setWidth] at hw ⊢
    by_cases hk2 : k < 16
    · have : ∀ k < 16, (0xFFFF0000#40).getLsbD k = false := by decide
      rw [this k hk2, h k hk2]; simp
    · rw [BitVec.getLsbD_of_ge hole k (by omega)]; simpa using hw
  have e2 : immField (word ||| hole.setWidth 40) = hole := by
    apply BitVec.eq_of_getLsbD_eq; intro k hk
    simp only [immField, BitVec.getLsbD_extractLsb', BitVec.getLsbD_or, BitVec.getLsbD_setWidth]
    rw [h (0 + k) (by omega)]
    simp [hk]; omega
  rw [holedWord, e1, e2]; simp

/-- A value that stands alone in a frame's data pulses is read back (R93 to R95). -/
theorem extract_field {w : Nat} (x : BitVec w) (k : Nat) (h : k + w ≤ 40) :
    (x.setWidth 40 <<< k).extractLsb' k w = x := by
  apply BitVec.eq_of_getLsbD_eq; intro j hj
  simp only [BitVec.getLsbD_extractLsb', BitVec.getLsbD_shiftLeft, BitVec.getLsbD_setWidth]
  simp [hj, show k + j < 40 by omega]
  omega

/-- A frame's value has no bit outside its data pulses. -/
theorem outside_field {w : Nat} (x : BitVec w) (k : Nat) (mask : BitVec 40)
    (hm : ∀ j, k ≤ j → j < k + w → mask.getLsbD j = false) : x.setWidth 40 <<< k &&& mask = 0#40 := by
  apply BitVec.eq_of_getLsbD_eq; intro j hj
  simp only [BitVec.getLsbD_and, BitVec.getLsbD_shiftLeft, BitVec.getLsbD_setWidth, BitVec.getLsbD_zero]
  by_cases h1 : k ≤ j
  · by_cases h2 : j < k + w
    · rw [hm j h1 h2]; simp
    · rw [BitVec.getLsbD_of_ge x (j - k) (by omega)]; simp
  · simp; omega

end Sys2Proof
end

