-- ==== Sys2Proof/Laws/Raw.lean ====
section
/-! SUPPORT. The raw TAP commands (R226 to R230) on given operands: once for all what each does when it is
accepted, and that a latched error refuses it. -/

namespace Sys2Proof.Machine

/-- An accepted raw command: no latch, and a width the check lets through (R212, R226). -/
theorem firstRefusal_raw {c : Byte} {argsOk : Bool} {s : State} (hf : s.fatal = false)
    (ha : argsOk = true) : firstRefusal c .rawTap argsOk s = none := firstRefusal_none hf rfl ha

/-- A latched error refuses every raw command (R212 step 2). -/
theorem runCommand_raw_fatal {c : Byte} {argsOk : Bool} {body : State → Ran (Word × Word)} {s : State}
    (hf : s.fatal = true) (hp : passesFatal c = false) :
    runCommand c .rawTap argsOk body s = refusedState 10#32 s :=
  runCommand_refused (k := .sessionFatal) (by rw [firstRefusal, hf, hp]; rfl)

/-- The session dropped, the rest of an accepted raw command being a call on the wire (R226). -/
theorem rawEnd_call {s : State} {c : Byte} {f : TapSession → TapSession} {r0 r1 : Word} :
    RawEnd s (respond 0#4 r0 r1 ((dropSession (s.accepted c)).call f)) r0 r1 0#32 :=
  ⟨⟨⟨rfl, rfl, rfl, rfl, rfl⟩, ⟨rfl, rfl, rfl, rfl, rfl⟩, ⟨rfl, rfl⟩, rfl⟩, rfl, rfl⟩

theorem setMode_did {bits : Nat} (hb : bits ≠ 0) (value : Word) (b : TapSession) :
    Did b (setMode bits value b).2 [.frame (modeFrame bits value)] ∧
    (setMode bits value b).2.tdoLast = b.answer (bits - 1) ∧
    (setMode bits value b).2.pins =
      { tms := value.getLsbD (bits - 1), tdi := false, tck := true, rst := b.pins.rst } ∧
    (setMode bits value b).2.shadow = b.shadow.after (modeFrame bits value) := by
  rw [setMode_eq hb]
  obtain ⟨n, rfl⟩ := Nat.exists_eq_succ_of_ne_zero hb
  have hsplit : modeFrame (n + 1) value = modeFrame n value ++ [⟨value.getLsbD n, false⟩] := by
    simp [modeFrame, List.range_succ]
  refine ⟨did_runPulses _ _, ?_, ?_, runPulses_shadow _ _⟩
  · show (runPulses (modeFrame (n + 1) value) b).tdoLast = _
    rw [hsplit, runPulses_getLast_tdoLast, modeFrame_length]; rfl
  · show (runPulses (modeFrame (n + 1) value) b).pins = _
    rw [hsplit, runPulses_getLast_pins]; rfl

theorem setMode_word (bits : Nat) (value : Word) (b : TapSession) :
    (setMode bits value b).1 = b.answerWord 0 bits := by
  by_cases hb : bits = 0
  · subst hb; rfl
  · rw [setMode_eq hb]

theorem xferData_word (bits : Nat) (value : Word) (b : TapSession) :
    (xferData bits value b).1 = b.answerWord 3 bits := by
  by_cases hb : bits = 0
  · subst hb; rfl
  · rw [xferData_eq hb]

/-- RAW_SET_MODE (R226). -/
theorem rawSetMode_done {bits : Word} {s : State} (value : Word) (hf : s.fatal = false)
    (hw : bits.toNat ≤ 32) : ModeSet s (rawSetMode bits value s) bits.toNat value := by
  rw [rawSetMode, runCommand_accepted (firstRefusal_raw hf (by rw [widthOk_eq]; simpa using hw))]
  simp only [setMode_word, dropSession_bus, accepted_bus]
  refine ⟨rawEnd_call, rfl, fun h0 => ?_, fun h0 => ?_⟩
  · show (setMode bits.toNat value s.bus).2 = s.bus
    rw [h0]; rfl
  · exact setMode_did h0 value s.bus

theorem lowBits_eq (bits : Nat) (v : Word) (h : bits ≤ 32) :
    Bits.lowBits bits v = BitVec.ofNat 32 (v.toNat % 2 ^ bits) := by
  apply BitVec.eq_of_toNat_eq
  have h1 : 2 ^ bits - 1 < 2 ^ 32 := by
    have := Nat.pow_le_pow_right (show 0 < 2 by decide) h
    have := Nat.two_pow_pos bits
    omega
  have h2 : v.toNat % 2 ^ bits < 2 ^ 32 := lt_of_le_of_lt (Nat.mod_le _ _) v.isLt
  rw [Bits.lowBits, BitVec.toNat_and, BitVec.toNat_ofNat, BitVec.toNat_ofNat, Nat.mod_eq_of_lt h1,
    Nat.mod_eq_of_lt h2, Nat.and_two_pow_sub_one_eq_mod]

theorem lowBits5_eq_iff (v k : Word) (hk : k.toNat < 32) :
    Bits.lowBits 5 v = k ↔ v.toNat % 32 = k.toNat := by
  rw [lowBits_eq 5 v (by decide), ← BitVec.toNat_inj, BitVec.toNat_ofNat]
  omega

/-- RAW_SEND_COMMAND (R227). -/
theorem rawSendCommand_done {bits : Word} {s : State} (opcode : Word) (hf : s.fatal = false)
    (hw : bits.toNat ≤ 32) : CommandSent s (rawSendCommand bits opcode s) bits.toNat opcode := by
  rw [rawSendCommand, runCommand_accepted (firstRefusal_raw hf (by rw [widthOk_eq]; simpa using hw))]
  refine ⟨rawEnd_call, rfl, fun h0 => ?_, fun h0 => ?_⟩
  · show sendCommand bits.toNat opcode s.bus = s.bus
    rw [h0]; rfl
  · have hs := (scanned_sendCommand h0 opcode s.bus).didScans
    have hsh : ∀ b : TapSession, b = sendCommand bits.toNat opcode s.bus →
        b.tap = (s.bus.shadow.after (irFrame bits.toNat opcode)).tap ∧
        b.ones = (s.bus.shadow.after (irFrame bits.toNat opcode)).ones ∧
        b.irSel = some { bits := BitVec.ofNat 6 bits.toNat, opcode := Bits.lowBits bits.toNat opcode } ∧
        b.tapSel = selAfter bits.toNat opcode (s.bus.shadow.after (irFrame bits.toNat opcode)).tapSel := by
      rintro b rfl
      rw [sendCommand_eq h0]
      have := runPulses_shadow (irFrame bits.toNat opcode) s.bus
      refine ⟨congrArg Shadow.tap this, congrArg Shadow.ones this, rfl, ?_⟩
      rw [selectIr_tapSel, setShift_tapSel]
      exact congrArg (selAfter _ _) (congrArg Shadow.tapSel this)
    obtain ⟨h1, h2, h3, h4⟩ := hsh _ rfl
    refine ⟨hs, h1, h2, h3.trans (by rw [lowBits_eq _ _ hw]), h4.trans ?_⟩
    simp only [selAfter, lowBits5_eq_iff opcode 0x04#32 (by decide), lowBits5_eq_iff opcode 0x05#32 (by decide)]
    rfl

/-- RAW_XFER_DATA (R228). -/
theorem rawXferData_done {bits : Word} {s : State} (value : Word) (hf : s.fatal = false)
    (hw : bits.toNat ≤ 32) : DataTransferred s (rawXferData bits value s) bits.toNat value := by
  rw [rawXferData, runCommand_accepted (firstRefusal_raw hf (by rw [widthOk_eq]; simpa using hw))]
  simp only [xferData_word, dropSession_bus, accepted_bus]
  refine ⟨rawEnd_call, rfl, fun h0 => ?_, fun h0 => ?_⟩
  · show (xferData bits.toNat value s.bus).2 = s.bus
    rw [h0]; rfl
  · refine ⟨(scanned_xferData h0 value s.bus).didScans, ?_⟩
    show (xferData bits.toNat value s.bus).2.shadow = _
    rw [xferData_eq h0]
    exact runPulses_shadow _ _

theorem fastDataScan_shadow (value : Word) (b : TapSession) :
    (fastDataScan value b).shadow = b.shadow.after (fdFrame value) := by
  rw [fastDataScan]
  generalize hx : fastScan value b = x
  have := (fastScan_eq value b).symm.trans hx
  subst this
  rw [setShift_shadow, runPulses_shadow]
  rfl

/-- RAW_XFER_FAST_DATA (R229). -/
theorem rawXferFastData_done {s : State} (value : Word) (hf : s.fatal = false) :
    FastDataTransferred s (rawXferFastData value s) value := by
  rw [rawXferFastData, runCommand_accepted (firstRefusal_raw hf rfl)]
  simp only [xferFastData_eq, finish]
  refine ⟨⟨⟨⟨rfl, rfl, rfl, rfl, rfl⟩, ⟨rfl, rfl, rfl, rfl, rfl⟩, ⟨rfl, rfl⟩, rfl⟩, rfl, rfl⟩, rfl, ?_, ?_⟩
  · exact (scanned_fastDataScan value s.bus).didScans
  · exact fastDataScan_shadow value s.bus

/-- RAW_XFER_INSTRUCTION (R230). -/
theorem rawXferInstruction_done {s : State} (word : Word) (hf : s.fatal = false) :
    InstructionTransferred s (rawXferInstruction word s) word := by
  rw [rawXferInstruction, runCommand_accepted (firstRefusal_raw hf rfl)]
  cases hj : readyControlPoll s.bus 0 with
  | some j =>
    obtain ⟨b, he, hb⟩ := xferInstruction_serviced word (dropSession (s.accepted 0x14#8)) j hj
    simp only [he, finish]
    refine ⟨fun k hk => ?_, fun hk => absurd (hj.symm.trans hk) (by simp), hb.idle⟩
    obtain rfl : j = k := Option.some.inj (hj.symm.trans hk)
    exact ⟨⟨⟨⟨rfl, rfl, rfl, rfl, rfl⟩, ⟨rfl, rfl, rfl, rfl, rfl⟩, ⟨rfl, rfl⟩, rfl⟩, rfl, rfl⟩, rfl, hb.didScans⟩
  | none =>
    obtain ⟨b, he, hb⟩ := xferInstruction_timeout word (dropSession (s.accepted 0x14#8)) hj
    simp only [he, finish]
    refine ⟨fun k hk => absurd (hj.symm.trans hk) (by simp), fun _ => ?_, hb.idle⟩
    exact ⟨⟨⟨⟨rfl, rfl, rfl, rfl, rfl⟩, ⟨rfl, rfl, rfl, rfl, rfl⟩, ⟨rfl, rfl⟩, rfl⟩, rfl, rfl⟩, rfl, hb.didScans⟩

/-! ### Refused with a latched error (R212 step 2) -/

section fatal
variable {s : State} (hf : s.fatal = true)
include hf
theorem rawSetMode_fatal (bits v : Word) : rawSetMode bits v s = refusedState 10#32 s := by
  rw [rawSetMode, runCommand_raw_fatal hf rfl]
theorem rawSendCommand_fatal (bits v : Word) : rawSendCommand bits v s = refusedState 10#32 s := by
  rw [rawSendCommand, runCommand_raw_fatal hf rfl]
theorem rawXferData_fatal (bits v : Word) : rawXferData bits v s = refusedState 10#32 s := by
  rw [rawXferData, runCommand_raw_fatal hf rfl]
theorem rawXferFastData_fatal (v : Word) : rawXferFastData v s = refusedState 10#32 s := by
  rw [rawXferFastData, runCommand_raw_fatal hf rfl]
theorem rawXferInstruction_fatal (v : Word) : rawXferInstruction v s = refusedState 10#32 s := by
  rw [rawXferInstruction, runCommand_raw_fatal hf rfl]
end fatal

/-! ### The words of the injected rows (R105, R106) -/

/-- The 32-bit word of an I-type form (R105). -/
theorem wordOf_itype (M : BitVec 40) (m : Word) (h : M.setWidth 32 = m) (rs rt : BitVec 5) (imm : Half) :
    (M ||| imm.setWidth 40 ||| rt.setWidth 40 <<< 16 ||| rs.setWidth 40 <<< 21).setWidth 32 =
      itype m rs rt imm := by
  subst h
  apply BitVec.eq_of_getLsbD_eq; intro k hk
  simp only [itype, BitVec.getLsbD_setWidth, BitVec.getLsbD_or, BitVec.getLsbD_shiftLeft, hk,
    show k < 40 by omega, show k - 16 < 40 by omega, show k - 21 < 40 by omega, show k - 16 < 32 by omega,
    show k - 21 < 32 by omega, decide_true, Bool.true_and]
  cases M.getLsbD k <;> cases imm.getLsbD k <;> simp [Bool.or_comm]

/-- The 32-bit word of a template word with its hole filled (R106). -/
theorem wordOf_hole {w : Nat} (M : BitVec 40) (m : Word) (h : M.setWidth 32 = m) (x : BitVec w) :
    (M ||| x.setWidth 40).setWidth 32 = m ||| x.setWidth 32 := by
  subst h
  apply BitVec.eq_of_getLsbD_eq; intro k hk
  simp [hk, show k < 40 by omega]

end Sys2Proof.Machine
end

