-- ==== Sys2Proof/Laws/Outcome.lean ====
section
/-! SUPPORT. What the body of each host command does to the host's side of the state, whatever the target
answers (R171, R212 to R230): the operands, the latch, the device state and the identity. -/

namespace Sys2Proof.Machine

/-- Everything is kept by the wire when nothing is asked of the session. -/
theorem pulseClosed_true : PulseClosed fun _ => True where
  pulse := fun _ _ _ _ => trivial
  shift := fun _ _ _ => trivial
  select := fun _ _ _ _ => trivial
  sleep := fun _ _ _ _ => trivial
  rst := fun _ _ _ => trivial

theorem wireClosed_true : WireClosed fun _ => True := pulseClosed_true.wire

/-- What a body that started in `s` did to the host's side, at its end. -/
def BodyOutcome (i : Instr) (s : State) : Ran (Word × Word) → Prop
  | .done _ u =>
    OperandsKept s u ∧ (i ≠ .clearError → LatchKept s u) ∧ u.dev = devAfter i s.dev ∧
    (passesLatch i = false → u.dev ≠ .debugMode → u.ident.valid = false) ∧
    (i ≠ .identify → u.ident.valid = true → u.ident = s.ident)
  | .raised _ u =>
    OperandsKept s u ∧ LatchKept s u ∧ u.dev = s.dev ∧ passesLatch i = false ∧
    (i ≠ .identify → u.ident = s.ident) ∧ (u.ident.valid = true → u.ident = s.ident)

/-- The host's side as it was but for `S.busy`, in the terms of Safety.lean. -/
theorem hostSide_fields {s u : State} (h : u.hostSide = { s.hostSide with busy := true }) :
    OperandsKept s u ∧ LatchKept s u ∧ u.dev = s.dev ∧ u.ident = s.ident := by
  have h' := h
  simp only [State.hostSide, HostSide.mk.injEq] at h'
  obtain ⟨h0, h1, h2, _, hd, hf, he, hi, _, _, _, hr, hc⟩ := h'
  exact ⟨⟨h0, h1, h2, hr, hc⟩, ⟨hf, he⟩, hd, hi⟩

/-- A body that keeps the host's side and the device state of which is DebugMode throughout. -/
theorem BodyOutcome.of_hostSide {i : Instr} {s : State} {r : Ran (Word × Word)}
    (h : r.final.hostSide = { s.hostSide with busy := true }) (hd : s.dev = devAfter i s.dev) (hv : devAfter i s.dev = .debugMode)
    (hp : passesLatch i = false) : BodyOutcome i s r := by
  obtain ⟨h1, h2, h3, h4⟩ := hostSide_fields h
  cases r with
  | done a u =>
    exact ⟨h1, fun _ => h2, h3.trans hd, fun _ hn => absurd ((h3.trans hd).trans hv) hn, fun _ _ => h4⟩
  | raised e u => exact ⟨h1, h2, h3, hp, fun _ => h4, fun _ => h4⟩

/-- A result handed on leaves the state a procedure ended in. -/
theorem Ran.final_results {α : Type} (r : Ran α) (f : α → State → Word × Word) :
    (r.andThen fun a s => .done (f a s) s).final = r.final := by cases r <;> rfl

section bodies
variable (s : State)

theorem downloadData_hostSide (ra d : Word) : (downloadData ra d s).final.hostSide = s.hostSide :=
  (kept_downloadData wireClosed_true ra d s ⟨trivial, rfl⟩).2

theorem readFlashData_hostSide (a : Word) : (readFlashData a s).final.hostSide = s.hostSide :=
  (kept_readFlashData wireClosed_true a s ⟨trivial, rfl⟩).2

theorem flashOperation_hostSide (op fa ra : Word) :
    (flashOperation op fa ra s).final.hostSide = s.hostSide :=
  (kept_flashOperation wireClosed_true op fa ra s ⟨trivial, rfl⟩).2

theorem programWord_hostSide (a v : Word) : (programWord a v s).final.hostSide = s.hostSide :=
  (kept_programWord wireClosed_true a v s ⟨trivial, rfl⟩).2

theorem erase_hostSide : (erase s).final.hostSide = s.hostSide :=
  (kept_erase pulseClosed_true s ⟨trivial, rfl⟩).2

theorem statusPoll_hostSide : (statusPoll s).final.hostSide = s.hostSide :=
  (kept_statusPoll pulseClosed_true s ⟨trivial, rfl⟩).2

theorem injectTemplate_hostSide (tm : List Instr) (n : Nat) :
    (injectTemplate tm n s).final.hostSide = s.hostSide :=
  (kept_injectTemplate wireClosed_true tm n s ⟨trivial, rfl⟩).2

theorem xferInstruction_hostSide (w : Word) : (xferInstruction w s).hostSide = s.hostSide :=
  (kept_xferInstruction wireClosed_true w s ⟨trivial, rfl⟩).2

/-- Ending in another device state drops the identity but in DebugMode (R171). -/
theorem BodyOutcome.setDev {i : Instr} {u : State} {a : Word × Word} {d : DevState}
    (h : u.hostSide = { s.hostSide with busy := true }) (hd : d = devAfter i s.dev) : BodyOutcome i s (.done a (u.setDev d)) := by
  obtain ⟨h1, h2, h3, h4⟩ := hostSide_fields h
  refine ⟨h1, fun _ => h2, hd, fun _ hn => ?_, fun _ hv => ?_⟩
  · have hn' : d ≠ .debugMode := hn
    simp [State.setDev, hn']
  · by_cases hm : d = .debugMode
    · subst hm; exact h4
    · exfalso; simp [State.setDev, hm] at hv

/-- A raw command drops the session first (R226). -/
theorem BodyOutcome.dropped {i : Instr} {u : State} {a : Word × Word}
    (h : u.hostSide =
      { s.hostSide with busy := true, dev := .unknown, ident := { s.ident with valid := false } })
    (hd : .unknown = devAfter i s.dev) : BodyOutcome i s (.done a u) := by
  obtain ⟨h1, h2, h3, h4⟩ :=
    hostSide_fields (s := { s with dev := .unknown, ident := { s.ident with valid := false } }) h
  have hv : u.ident.valid = false := congrArg Ident.valid h4
  exact ⟨h1, fun _ => h2, h3.trans hd, fun _ _ => hv, fun _ h => absurd (hv.symm.trans h) (by decide)⟩

theorem BodyOutcome.raised {i : Instr} {u : State} {e : RaiseInfo}
    (h : u.hostSide = { s.hostSide with busy := true }) (hp : passesLatch i = false) : BodyOutcome i s (.raised e u) := by
  obtain ⟨h1, h2, h3, h4⟩ := hostSide_fields h
  exact ⟨h1, h2, h3, hp, fun _ => h4, fun _ => h4⟩

end bodies

/-- Every host command runs a body that does this to the host's side when it is accepted (R212). -/
theorem exec_body (i : Instr) (c : Byte) (s : State) (hi : hostOpcode i = some c) :
    ∃ op argsOk body, exec i s = .next (runCommand c op argsOk body s) ∧ Checks i c op argsOk s ∧
      (Accepted i s → BodyOutcome i s (body (s.accepted c))) := by
  cases i <;> simp only [hostOpcode, Option.some.injEq, reduceCtorEq] at hi <;> subst hi
  case nop =>
    exact ⟨_, _, _, rfl, checks_nop s, fun _ =>
      ⟨⟨rfl, rfl, rfl, rfl, rfl⟩, fun _ => ⟨rfl, rfl⟩, rfl, fun h => absurd h (by decide), fun _ _ => rfl⟩⟩
  case clearError =>
    exact ⟨_, _, _, rfl, checks_clearError s, fun _ =>
      ⟨⟨rfl, rfl, rfl, rfl, rfl⟩, fun h => absurd rfl h, rfl, fun h => absurd h (by decide), fun _ _ => rfl⟩⟩
  case waitReady =>
    refine ⟨_, _, _, rfl, checks_waitReady s, fun _ => ?_⟩
    have h := statusPoll_hostSide (statusGate (s.accepted 0x01#8))
    rw [checkStatus_eq]
    cases hr : statusPoll (statusGate (s.accepted 0x01#8)) with
    | done r u => rw [hr] at h; exact BodyOutcome.setDev s h rfl
    | raised e u => rw [hr] at h; exact BodyOutcome.raised s h rfl
  case enterPgmMode =>
    refine ⟨_, _, _, rfl, checks_enterPgmMode s, fun _ => ?_⟩
    have h := injectTemplate_hostSide (bootSent (s.accepted 0x02#8)) templatePre lengthPre
    rw [enterPgmMode_eq]
    cases hr : injectTemplate templatePre lengthPre (bootSent (s.accepted 0x02#8)) with
    | done r u => rw [hr] at h; exact BodyOutcome.setDev s h rfl
    | raised e u => rw [hr] at h; exact BodyOutcome.raised s h rfl
  case exitPgmMode =>
    refine ⟨_, _, _, rfl, checks_exitPgmMode s, fun _ => ?_⟩
    obtain ⟨b, step, he, _⟩ := exitPgmMode_eq (s.accepted 0x03#8)
    rw [he]
    exact BodyOutcome.setDev s rfl rfl
  case eraseAll =>
    refine ⟨_, _, _, rfl, checks_eraseAll s, fun ha => ?_⟩
    have hd : s.dev = .debugMode := by simpa using (by simpa [allowedNow] using ha.2.1 : _ ∧ _).1
    refine BodyOutcome.of_hostSide ?_ hd rfl rfl
    exact (congrArg State.hostSide (Ran.final_results _ _)).trans (erase_hostSide (s.accepted 0x04#8))
  case assertTargetReset =>
    refine ⟨_, _, _, rfl, checks_assertTargetReset s, fun _ => ?_⟩
    refine BodyOutcome.setDev s ?_ rfl
    rw [setRst_eq]; rfl
  case identify =>
    refine ⟨_, _, _, rfl, checks_identify s, fun ha => ?_⟩
    have hd : s.dev = .debugMode := by simpa [allowedNow] using ha.2.1
    have h := readFlashData_hostSide
      ({ s.accepted 0x06#8 with ident := { s.ident with valid := false } } : State) Param.devidAddr
    have hid : identifyIn (s.accepted 0x06#8).catalog (s.accepted 0x06#8) =
        (readFlashData Param.devidAddr
          ({ s.accepted 0x06#8 with ident := { s.ident with valid := false } } : State)).andThen
          fun w u => match scanCatalog (w &&& Param.idMask) 0 (s.accepted 0x06#8).catalog with
            | none => .raised ⟨.deviceUnidentified, Param.devidAddr, w, 0#32⟩ u
            | some (i, r) => .done i { u with ident := identOf (w &&& Param.idMask) r } := rfl
    rw [hid]
    cases hr : readFlashData Param.devidAddr
        ({ s.accepted 0x06#8 with ident := { s.ident with valid := false } } : State) with
    | raised e u =>
      rw [hr] at h
      obtain ⟨h1, h2, h3, h4⟩ :=
        hostSide_fields (s := { s with ident := { s.ident with valid := false } }) h
      exact ⟨h1, h2, h3, rfl, fun h => absurd rfl h, fun hv => by
        have h4' : u.ident.valid = false := congrArg Ident.valid h4
        rw [h4'] at hv; exact absurd hv (by decide)⟩
    | done w u =>
      rw [hr] at h
      obtain ⟨h1, h2, h3, h4⟩ :=
        hostSide_fields (s := { s with ident := { s.ident with valid := false } }) h
      simp only [Ran.andThen]
      cases scanCatalog (w &&& Param.idMask) 0 (s.accepted 0x06#8).catalog with
      | none =>
        exact ⟨h1, h2, h3, rfl, fun h => absurd rfl h, fun hv => by
          have h4' : u.ident.valid = false := congrArg Ident.valid h4
          rw [h4'] at hv; exact absurd hv (by decide)⟩
      | some p =>
        have h3' : u.dev = .debugMode := h3.trans hd
        exact ⟨h1, fun _ => h2, h3', fun _ hn => absurd h3' hn, fun h => absurd rfl h⟩
  case programWord =>
    refine ⟨_, _, _, rfl, checks_programWord s, fun ha => ?_⟩
    have hd : s.dev = .debugMode := by simpa using (by simpa [allowedNow] using ha.2.1 : _ ∧ _).1
    refine BodyOutcome.of_hostSide ?_ hd rfl rfl
    exact (congrArg State.hostSide (Ran.final_results _ _)).trans
      (programWord_hostSide (s.accepted 0x07#8) _ _)
  case readWord =>
    refine ⟨_, _, _, rfl, checks_readWord s, fun ha => ?_⟩
    have hd : s.dev = .debugMode := by simpa [allowedNow] using ha.2.1
    refine BodyOutcome.of_hostSide ?_ hd rfl rfl
    exact (congrArg State.hostSide (Ran.final_results _ _)).trans
      (readFlashData_hostSide (s.accepted 0x08#8) _)
  case verifyWord =>
    refine ⟨_, _, _, rfl, checks_verifyWord s, fun ha => ?_⟩
    have hd : s.dev = .debugMode := by simpa [allowedNow] using ha.2.1
    refine BodyOutcome.of_hostSide ?_ hd rfl rfl
    refine Ran.final_andThen (P := fun u => u.hostSide = { s.hostSide with busy := true })
      (readFlashData_hostSide (s.accepted 0x09#8) _) fun w u hu => ?_
    split <;> exact hu
  case downloadData =>
    refine ⟨_, _, _, rfl, checks_downloadData s, fun ha => ?_⟩
    have hd : s.dev = .debugMode := by simpa [allowedNow] using ha.2.1
    refine BodyOutcome.of_hostSide ?_ hd rfl rfl
    exact (congrArg State.hostSide (Ran.final_results _ _)).trans
      (downloadData_hostSide (s.accepted 0x0A#8) _ _)
  case flashOperation =>
    refine ⟨_, _, _, rfl, checks_flashOperation s, fun ha => ?_⟩
    have hd : s.dev = .debugMode := by simpa using (by simpa [allowedNow] using ha.2.1 : _ ∧ _).1
    refine BodyOutcome.of_hostSide ?_ hd rfl rfl
    refine Ran.final_andThen (P := fun u => u.hostSide = { s.hostSide with busy := true })
      (flashOperation_hostSide (s.accepted 0x0B#8) _ _ _) fun w u hu => ?_
    split <;> exact hu
  case rawSetMode =>
    exact ⟨_, _, _, rfl, checks_rawSetMode s, fun _ => BodyOutcome.dropped s rfl rfl⟩
  case rawSendCommand =>
    exact ⟨_, _, _, rfl, checks_rawSendCommand s, fun _ => BodyOutcome.dropped s rfl rfl⟩
  case rawXferData =>
    exact ⟨_, _, _, rfl, checks_rawXferData s, fun _ => BodyOutcome.dropped s rfl rfl⟩
  case rawXferFastData =>
    exact ⟨_, _, _, rfl, checks_rawXferFastData s, fun _ => BodyOutcome.dropped s rfl rfl⟩
  case rawXferInstruction =>
    exact ⟨_, _, _, rfl, checks_rawXferInstruction s, fun _ => BodyOutcome.dropped s
      (xferInstruction_hostSide (dropSession (s.accepted 0x14#8)) s.arg0) rfl⟩

/-- How a host command ends (R212, R240): refused with nothing done, OK, or with an error taken. -/
theorem exec_ends {i : Instr} {c : Byte} {s : State} (hi : hostOpcode i = some c) :
    (∃ code : Word, (code = 8#32 ∨ code = 9#32 ∨ code = 10#32) ∧
      exec i s = .next (refusedState code s)) ∨
    (Accepted i s ∧ ∃ r u, exec i s = .next (respond 0#4 r.1 r.2 u) ∧ BodyOutcome i s (.done r u)) ∨
    (Accepted i s ∧ ∃ e u, exec i s = .next (raise c e u) ∧ BodyOutcome i s (.raised e u)) := by
  obtain ⟨op, ok, body, he, hc, hb⟩ := exec_body i c s hi
  by_cases ha : Accepted i s
  · rw [hc.accept ha] at he
    have := hb ha
    cases hr : body (s.accepted c) with
    | done r u => rw [hr] at he this; exact .inr (.inl ⟨ha, r, u, he, this⟩)
    | raised e u => rw [hr] at he this; exact .inr (.inr ⟨ha, e, u, he, this⟩)
  · refine .inl ?_
    rw [he]
    by_cases hf : s.fatal = true → passesLatch i = true
    · cases hl : allowedNow i s with
      | false => exact ⟨_, .inl rfl, by rw [hc.illegalState hf hl]⟩
      | true =>
        cases ho : operandsOk i s with
        | false => exact ⟨_, .inr (.inl rfl), by rw [hc.badArgument hf hl ho]⟩
        | true => exact absurd ⟨hf, hl, ho⟩ ha
    · simp only [Classical.not_imp, Bool.not_eq_true] at hf
      exact ⟨_, .inr (.inr rfl), by rw [hc.sessionFatal hf.1 hf.2]⟩

/-- An error's code is 1 to 5 (R101, R240). -/
theorem errorCode_range (k : ErrorKind) : 1 ≤ k.toCode.toNat ∧ k.toCode.toNat ≤ 5 := by
  cases k <;> decide

end Sys2Proof.Machine
end

