-- ==== Sys2Proof/Laws/Rows.lean ====
section
/-! SUPPORT. Which shared operation each row that is no host command runs (R99, R111, R226 to R230): a
response, or a raw command on the row's own operands; and what every instruction keeps: the catalog, and of
the session what every pulse keeps. -/

namespace Sys2Proof.Machine

/-- What a row of the opcode table that is no host command does, by itself. -/
inductive RowRun (s : State) : Host.Outcome State Fault Refusal → Prop where
  | responds (code : BitVec 4) (r0 r1 : Word) : RowRun s (.next (respond code r0 r1 s))
  | setsMode (bits value : Word) : RowRun s (.next (rawSetMode bits value s))
  | sendsCommand (bits opcode : Word) : RowRun s (.next (rawSendCommand bits opcode s))
  | transfersData (bits value : Word) : RowRun s (.next (rawXferData bits value s))
  | transfersFastData (value : Word) : RowRun s (.next (rawXferFastData value s))
  | transfersInstruction (word : Word) : RowRun s (.next (rawXferInstruction word s))

theorem exec_row {i : Instr} (s : State) (hi : hostOpcode i = none) : RowRun s (exec i s) := by
  cases i
  case nop | waitReady | enterPgmMode | exitPgmMode | eraseAll | assertTargetReset | identify |
    programWord | readWord | verifyWord | downloadData | flashOperation | clearError | rawSetMode |
    rawSendCommand | rawXferData | rawXferFastData | rawXferInstruction => exact absurd hi (by decide)
  case reserved0C | reserved0F | reserved15 | reserved16 | reserved18 | reserved20 | reserved40 |
    reserved80 => exact .responds _ _ _
  case setMode6TapReset => exact .setsMode _ _
  case sendCommand5 => exact .sendsCommand _ _
  case xferData8 | xferData32 => exact .transfersData _ _
  case xferFastData => exact .transfersFastData _
  case mtapSwMtap | mtapSwEtap | mtapCommand | etapData | etapControl | etapEjtagboot | etapFastdata =>
    exact .sendsCommand _ _
  case mchpStatus | mchpErase | ctrlResume | ctrlProceed => exact .transfersData _ _
  case lui | ori | andi | sw | lw | bne | mipsNop | preP0 | preP1 | dlD0 | dlD1 | dlD2 | dlD3 | dlD4 |
    foF0 | foF1 | foF2 | foF3 | foF4 | foF5 | foF6 | foF7 | foF8 | foF9 | foF10 | foF11 | foF12 | foF13 |
    foF14 | foF15 | foF16 | foF17 | foF18 | foF19 | foF20 | foF21 | foF22 | foF23 | foF24 | foF25 | foF26
    | foF27 | foF28 | foF29 | rdA0 | rdA1 | rdA2 | rdA3 | rdA4 => exact .transfersInstruction _
  case rspOk | rspBusTimeout | rspProtocolFraming | rspNvmControllerError | rspDeviceUnidentified |
    rspVerifyMismatch | rspIllegalState | rspBadArgument | rspSessionFatal | rspUnknownOpcode =>
    exact .responds _ _ _

/-! ### No instruction writes the catalog (R40) -/

/-- A command whose body leaves the catalog alone leaves it alone. -/
theorem runCommand_catalog {c : Byte} {op : Operation} {argsOk : Bool} {body : State → Ran (Word × Word)}
    {s : State} (hb : (body (s.accepted c)).final.catalog = s.catalog) :
    (runCommand c op argsOk body s).catalog = s.catalog := by
  rcases runCommand_cases c op argsOk body s with ⟨k, hk⟩ | ⟨r, u, hr, hk⟩ | ⟨e, u, hr, hk⟩
  · rw [hk]; rfl
  · rw [hk]; rw [hr] at hb; exact hb
  · rw [hk, raise_catalog]; rw [hr] at hb; exact hb

theorem exec_catalog {i : Instr} {s t : State} (he : exec i s = .next t) : t.catalog = s.catalog := by
  cases hi : hostOpcode i with
  | none =>
    have hr := exec_row s hi
    rw [he] at hr
    cases hr with
    | responds => rfl
    | setsMode | sendsCommand | transfersData | transfersFastData => exact runCommand_catalog rfl
    | transfersInstruction w =>
      exact runCommand_catalog
        (congrArg HostSide.catalog (xferInstruction_hostSide (dropSession (s.accepted 0x14#8)) w))
  | some c =>
    obtain ⟨op, argsOk, body, h, hc, hb⟩ := exec_body i c s hi
    rw [h] at he
    rw [← Host.Outcome.next.inj he]
    by_cases ha : Accepted i s
    · have hb := hb ha
      refine runCommand_catalog ?_
      cases hr : body (s.accepted c) with
      | done r u => rw [hr] at hb; exact hb.1.2.2.2.2
      | raised e u => rw [hr] at hb; exact hb.1.2.2.2.2
    · obtain ⟨k, hk⟩ := hc.refused ha body
      rw [hk]; rfl

/-! ### What every step keeps of the session -/

section closed
variable {P : TapSession → Prop} (hP : PulseClosed P)
include hP

omit hP in
theorem runCommand_closed {c : Byte} {op : Operation} {argsOk : Bool} {body : State → Ran (Word × Word)}
    {s : State} (hs : P s.bus) (hb : P (body (s.accepted c)).final.bus) :
    P (runCommand c op argsOk body s).bus := by
  rcases runCommand_cases c op argsOk body s with ⟨k, hk⟩ | ⟨r, u, hr, hk⟩ | ⟨e, u, hr, hk⟩
  · rw [hk]; exact hs
  · rw [hk]; rw [hr] at hb; exact hb
  · rw [hk, raise_bus]; rw [hr] at hb; exact hb

omit hP in
/-- A result handed on, or an error for it, leaves the session a procedure ended in. -/
theorem final_andThen_bus {α : Type} {r : Ran α} {f : α → State → Ran (Word × Word)} (h : P r.final.bus)
    (hf : ∀ a u, (f a u).final.bus = u.bus) : P (r.andThen f).final.bus := by
  cases r with
  | done a u => rw [show (Ran.done a u).andThen f = f a u from rfl, hf]; exact h
  | raised e u => exact h

section body
variable {s : State} (hs : P s.bus)
include hs

theorem closed_checkStatus : P (checkStatus s).final.bus := by
  have h0 : P (statusGate s).bus :=
    hP.sendCommand 5 0x07#32 _ (hP.sendCommand 5 0x04#32 _ (hP.tapReset _ (hP.rst true _ hs)))
  have h := (kept_statusPoll hP (statusGate s) ⟨h0, rfl⟩).1
  rw [checkStatus_eq]
  cases hr : statusPoll (statusGate s) with
  | done r u => rw [hr] at h; exact h
  | raised e u => rw [hr] at h; exact h

theorem closed_enterPgmMode : P (enterPgmMode s).final.bus := by
  have h0 : P (bootSent s).bus :=
    hP.sleep 10 _ (by decide) (hP.rst false _ (hP.sendCommand 5 0x0C#32 _ (hP.sendCommand 5 0x05#32 _ hs)))
  have h := (kept_injectTemplate hP.wire templatePre lengthPre (bootSent s) ⟨h0, rfl⟩).1
  rw [enterPgmMode_eq]
  cases hr : injectTemplate templatePre lengthPre (bootSent s) with
  | done r u => rw [hr] at h; exact h
  | raised e u => rw [hr] at h; exact h

theorem closed_exitPgmMode : P (exitPgmMode s).bus := by
  have h : P (driveRst false ((driveRst true (sendCommand 5 0x04#32 (tapReset s.bus))).emit
      (.sleep 10))) :=
    hP.rst _ _ (hP.sleep 10 _ (by decide) (hP.rst _ _ (hP.sendCommand 5 0x04#32 _ (hP.tapReset _ hs))))
  rw [exitPgmMode, setRst_eq, setRst_eq]
  exact h

theorem closed_assertReset (a : Bool) : P (assertReset a s).bus := by
  rw [assertReset, setRst_eq]; exact hP.rst _ _ hs

theorem closed_identifyIn (catalog : List DeviceRecord) : P (identifyIn catalog s).final.bus := by
  have h := (kept_readFlashData hP.wire Param.devidAddr
    ({ s with ident := { s.ident with valid := false } } : State) ⟨hs, rfl⟩).1
  rw [identifyIn]
  cases hr : readFlashData Param.devidAddr ({ s with ident := { s.ident with valid := false } } : State) with
  | raised e u => rw [hr] at h; exact h
  | done w u =>
    rw [hr] at h
    simp only [Ran.andThen]
    cases scanCatalog (w &&& Param.idMask) 0 catalog <;> exact h

end body

section raws
variable {s : State} (hs : P s.bus)
include hs
theorem closed_rawSetMode (bits v : Word) : P (rawSetMode bits v s).bus :=
  runCommand_closed hs (hP.setMode _ _ _ hs)
theorem closed_rawSendCommand (bits v : Word) : P (rawSendCommand bits v s).bus :=
  runCommand_closed hs (hP.sendCommand _ _ _ hs)
theorem closed_rawXferData (bits v : Word) : P (rawXferData bits v s).bus :=
  runCommand_closed hs (hP.xferData _ _ _ hs)
theorem closed_rawXferFastData (v : Word) : P (rawXferFastData v s).bus :=
  runCommand_closed hs (hP.fastDataScan _ _ hs)
theorem closed_rawXferInstruction (v : Word) : P (rawXferInstruction v s).bus := by
  have h := (kept_xferInstruction hP.wire v (dropSession (s.accepted 0x14#8)) ⟨hs, rfl⟩).1
  rw [rawXferInstruction]
  exact runCommand_closed hs h
end raws

/-- Every instruction keeps of the session what every pulse, edge and Sleep keeps. -/
theorem exec_closed {i : Instr} {s t : State} (hs : P s.bus) (he : exec i s = .next t) : P t.bus := by
  cases hi : hostOpcode i with
  | none =>
    have hr := exec_row s hi
    rw [he] at hr
    cases hr with
    | responds => exact hs
    | setsMode => exact closed_rawSetMode hP hs _ _
    | sendsCommand => exact closed_rawSendCommand hP hs _ _
    | transfersData => exact closed_rawXferData hP hs _ _
    | transfersFastData => exact closed_rawXferFastData hP hs _
    | transfersInstruction => exact closed_rawXferInstruction hP hs _
  | some c =>
    cases i <;> simp only [hostOpcode, Option.some.injEq, reduceCtorEq] at hi <;>
      rw [← Host.Outcome.next.inj he]
    case nop => exact runCommand_closed hs hs
    case clearError => exact runCommand_closed hs hs
    case waitReady =>
      exact runCommand_closed hs
        (final_andThen_bus (closed_checkStatus hP (s := s.accepted 0x01#8) hs) fun _ _ => rfl)
    case enterPgmMode =>
      exact runCommand_closed hs
        (final_andThen_bus (closed_enterPgmMode hP (s := s.accepted 0x02#8) hs) fun _ _ => rfl)
    case exitPgmMode =>
      exact runCommand_closed hs (closed_exitPgmMode hP (s := s.accepted 0x03#8) hs)
    case eraseAll =>
      exact runCommand_closed hs
        (final_andThen_bus (kept_erase hP (s.accepted 0x04#8) ⟨hs, rfl⟩).1 fun _ _ => rfl)
    case assertTargetReset =>
      exact runCommand_closed hs (closed_assertReset hP (s := s.accepted 0x05#8) hs _)
    case identify =>
      exact runCommand_closed hs
        (final_andThen_bus (closed_identifyIn hP (s := s.accepted 0x06#8) hs _) fun _ _ => rfl)
    case programWord =>
      exact runCommand_closed hs
        (final_andThen_bus (kept_programWord hP.wire _ _ (s.accepted 0x07#8) ⟨hs, rfl⟩).1
          fun _ _ => rfl)
    case readWord =>
      exact runCommand_closed hs
        (final_andThen_bus (kept_readFlashData hP.wire _ (s.accepted 0x08#8) ⟨hs, rfl⟩).1
          fun _ _ => rfl)
    case verifyWord =>
      exact runCommand_closed hs
        (final_andThen_bus (kept_readFlashData hP.wire _ (s.accepted 0x09#8) ⟨hs, rfl⟩).1
          fun _ _ => by split <;> rfl)
    case downloadData =>
      exact runCommand_closed hs
        (final_andThen_bus (kept_downloadData hP.wire _ _ (s.accepted 0x0A#8) ⟨hs, rfl⟩).1
          fun _ _ => rfl)
    case flashOperation =>
      exact runCommand_closed hs
        (final_andThen_bus (kept_flashOperation hP.wire _ _ _ (s.accepted 0x0B#8) ⟨hs, rfl⟩).1
          fun _ _ => by split <;> rfl)
    case rawSetMode => exact closed_rawSetMode hP hs _ _
    case rawSendCommand => exact closed_rawSendCommand hP hs _ _
    case rawXferData => exact closed_rawXferData hP hs _ _
    case rawXferFastData => exact closed_rawXferFastData hP hs _
    case rawXferInstruction => exact closed_rawXferInstruction hP hs _

end closed

end Sys2Proof.Machine
end

