-- ==== Sys2Proof/Laws/Invariant.lean ====
section
/-! SUPPORT. What the invariants of R43 rest on: the clock rests high and Run-Test/Idle counts no high pulse
after anything, the wire of DebugMode stays linked to the execution TAP, and each host command's body
leaves the session that its device state asks for. -/

namespace Sys2Proof.Machine

/-- The clock at its idle level, no high pulse counted in Run-Test/Idle. -/
def Sane (b : TapSession) : Prop := b.pins.tck = true ∧ (b.tap = .runTestIdle → b.ones = 0#3)

theorem pulseClosed_sane : PulseClosed Sane where
  pulse := fun tms tdi b h => ⟨rfl, runPulses_idle [⟨tms, tdi⟩] b h.2⟩
  shift := fun _ _ h => h
  select := fun _ _ _ h => h
  sleep := fun _ _ _ h => h
  rst := fun _ _ h => h

/-- The session of DebugMode (R43 I3): between scans, the execution TAP selected, reset released. -/
def Linked (b : TapSession) : Prop := AtIdle b ∧ b.tapSel = .etap ∧ b.pins.rst = false

theorem Linked.of_scanned {b b' : TapSession} {as : List Action} {ir sel} (h : Linked b)
    (hs : Scanned b b' as b.pins.rst ir sel) (hsel : sel = b.tapSel) : Linked b' := by
  obtain ⟨h1, _, h3⟩ := hs.idle h.1
  exact ⟨h1, h3.trans (hsel.trans h.2.1), hs.rst_eq.trans h.2.2⟩

theorem wireClosed_linked : WireClosed Linked where
  data := fun b h => h.of_scanned (scanned_ir5 0x09#32 b (by decide) (by decide) (by decide)) rfl
  control := fun b h => h.of_scanned (scanned_ir5 0x0A#32 b (by decide) (by decide) (by decide)) rfl
  fast := fun b h => h.of_scanned (scanned_ir5 0x0E#32 b (by decide) (by decide) (by decide)) rfl
  scan := fun v b h => h.of_scanned (scanned_dataScan32 v b) rfl
  drain := fun b h => h.of_scanned (scanned_fastDataScan 0#32 b) rfl

/-- Both at once, for the procedures of the injector. -/
theorem wireClosed_sane_linked : WireClosed fun b => Sane b ∧ Linked b where
  data := fun b h => ⟨pulseClosed_sane.wire.data b h.1, wireClosed_linked.data b h.2⟩
  control := fun b h => ⟨pulseClosed_sane.wire.control b h.1, wireClosed_linked.control b h.2⟩
  fast := fun b h => ⟨pulseClosed_sane.wire.fast b h.1, wireClosed_linked.fast b h.2⟩
  scan := fun v b h => ⟨pulseClosed_sane.wire.scan v b h.1, wireClosed_linked.scan v b h.2⟩
  drain := fun b h => ⟨pulseClosed_sane.wire.drain b h.1, wireClosed_linked.drain b h.2⟩

/-- What R43's I2 and I3 ask of the session in a device state. -/
def SessionFits (s : State) : Prop :=
  (s.dev = .mtapSelected →
    AtIdle s.bus ∧ s.bus.pins.rst = true ∧ s.bus.tapSel = .mtap ∧ s.bus.irSel = ir5 0x07#32) ∧
  (s.dev = .debugMode → Linked s.bus)

/-- The invariant in the two parts the procedures keep, and what the end of a command fixes. -/
theorem inv_iff (s : State) :
    EngineInv s ↔ (s.ident.valid = true → s.dev = .debugMode) ∧ SessionFits s ∧ Sane s.bus ∧
      (s.seq = { op := none, step := 0 } ∧ s.busy = false) ∧
      (s.fatal = true ↔ 1 ≤ s.err.code.toNat ∧ s.err.code.toNat ≤ 5) := by
  constructor
  · rintro ⟨⟨h1, h2, h3, h4, h5, h6⟩, h7⟩
    refine ⟨h1, ⟨fun h => ?_, fun h => ?_⟩, ⟨h4, h7⟩, h5, h6⟩
    · obtain ⟨a, b, c, d⟩ := h2 h
      exact ⟨⟨b, h7 b⟩, a, c, d⟩
    · obtain ⟨a, b, c⟩ := h3 h
      exact ⟨⟨b, h7 b⟩, c, a⟩
  · rintro ⟨h1, h2, h3, h5, h6⟩
    refine ⟨⟨h1, fun h => ?_, fun h => ?_, h3.1, h5, h6⟩, h3.2⟩
    · obtain ⟨a, b, c, d⟩ := h2.1 h
      exact ⟨b, a.1, c, d⟩
    · obtain ⟨a, b, c⟩ := h2.2 h
      exact ⟨c, a.1, b⟩

/-- What a body leaves of the session, at its end. -/
def BodySession : Ran (Word × Word) → Prop
  | .done _ u => Sane u.bus ∧ SessionFits u
  | .raised e u => Sane u.bus ∧ (dropsDev e.kind = false → SessionFits u)

/-- In DebugMode the injector and the drain keep the session as DebugMode asks. -/
theorem BodySession.of_kept {h : HostSide} {r : Ran (Word × Word)}
    (hk : Kept (fun b => Sane b ∧ Linked b) h r.final) (hd : h.dev = .debugMode) : BodySession r := by
  have hdev : r.final.dev = .debugMode := (congrArg HostSide.dev hk.2).trans hd
  have hf : SessionFits r.final := ⟨fun h => by rw [hdev] at h; exact absurd h (by decide), fun _ => hk.1.2⟩
  cases r with
  | done a u => exact ⟨hk.1.1, hf⟩
  | raised e u => exact ⟨hk.1.1, fun _ => hf⟩

/-- A state the session of which nothing is asked of. -/
theorem sessionFits_other {s : State} (h1 : s.dev ≠ .mtapSelected) (h2 : s.dev ≠ .debugMode) :
    SessionFits s := ⟨fun h => absurd h h1, fun h => absurd h h2⟩

theorem sane_of_didScans {b b' : TapSession} {as : List Action} {rst : Bool} (h : DidScans b b' as rst)
    (hi : AtIdle b') : Sane b' := ⟨by rw [h.2.2], fun _ => hi.2⟩

/-- An injected template ends early only with an error that drops the device state (R162, R184). -/
theorem injectTemplate_drops {tm : List Instr} {n : Nat} {s t : State} {e : RaiseInfo}
    (h : injectTemplate tm n s = .raised e t) : dropsDev e.kind = true := by
  have hw : ∀ (ws : List Word) (s : State), injectWords ws s = .raised e t → dropsDev e.kind = true := by
    intro ws
    induction ws with
    | nil => intro s h; simp [injectWords] at h
    | cons w ws ih =>
      intro s h
      rw [injectWords] at h
      cases hi : inject w s with
      | done a u => rw [hi] at h; exact ih u h
      | raised e' u =>
        rw [hi] at h
        rw [inject] at hi
        split at hi
        · simp at hi
        · simp only [Ran.raised.injEq] at hi
          simp only [Ran.andThen, Ran.raised.injEq] at h
          rw [← h.1, ← hi.1]; rfl
  rw [injectTemplate] at h
  cases hi : injectWords (tm.map wordOf) s with
  | raised e' u =>
    rw [hi] at h
    simp only [Ran.andThen, Ran.raised.injEq] at h
    exact hw _ s (by rw [hi, h.1, h.2])
  | done a u =>
    rw [hi] at h
    simp only [Ran.andThen, checkCount] at h
    split at h
    · simp at h
    · simp only [Ran.raised.injEq] at h
      rw [← h.1]; rfl

section session
variable {s : State} (hs : Sane s.bus) (hf : SessionFits s)

theorem session_checkStatus (c : Byte) :
    BodySession ((checkStatus (s.accepted c)).andThen statusAndCount) := by
  cases hj : readyStatusPoll s.bus 28 with
  | some j =>
    obtain ⟨b, step, he, hd, hi, hir, hsel⟩ := checkStatus_ready (s.accepted c) j hj
    rw [he]
    refine ⟨sane_of_didScans hd hi, fun _ => ⟨hi, ?_, hsel, hir⟩, fun h => absurd h ?_⟩
    · show b.pins.rst = true
      rw [hd.2.2]
    · show ¬ (DevState.mtapSelected = .debugMode)
      decide
  | none =>
    obtain ⟨b, step, he, hd, hi, _⟩ := checkStatus_timeout (s.accepted c) hj
    rw [he]
    exact ⟨sane_of_didScans hd hi, fun h => Bool.noConfusion h⟩

include hf in
theorem session_enterPgmMode (c : Byte) (hm : s.dev = .mtapSelected) (f : Unit → State → Word × Word) :
    BodySession ((enterPgmMode (s.accepted c)).andThen fun a u => .done (f a u) u) := by
  have h0 := scanned_bootSent (s.accepted c)
  have hi := h0.idle (hf.1 hm).1
  have hb : Sane (bootSent (s.accepted c)).bus ∧ Linked (bootSent (s.accepted c)).bus :=
    ⟨⟨by rw [h0.pins], fun _ => hi.1.2⟩, hi.1, hi.2.2, h0.rst_eq⟩
  have hk := kept_injectTemplate wireClosed_sane_linked templatePre lengthPre (bootSent (s.accepted c))
    ⟨hb, rfl⟩
  rw [enterPgmMode_eq]
  cases hr : injectTemplate templatePre lengthPre (bootSent (s.accepted c)) with
  | done a u =>
    rw [hr] at hk
    refine ⟨hk.1.1, fun h => absurd h ?_, fun _ => hk.1.2⟩
    show ¬ (DevState.debugMode = .mtapSelected)
    decide
  | raised e u =>
    rw [hr] at hk
    exact ⟨hk.1.1, fun h => by rw [injectTemplate_drops hr] at h; exact absurd h (by decide)⟩

include hf in
theorem session_erase (c : Byte) (hm : s.dev = .debugMode) :
    BodySession ((erase (s.accepted c)).andThen statusAndCount) := by
  have hl := hf.2 hm
  cases hj : readyStatusPoll s.bus 35 with
  | some j =>
    obtain ⟨b, step, he, hd⟩ := erase_ready (s.accepted c) j hj
    obtain ⟨hi, _, hsel⟩ := hd.idle hl.1
    rw [he]
    have hdev : ¬ (s.dev = .mtapSelected) := by rw [hm]; decide
    exact ⟨sane_of_didScans hd.didScans hi, fun h => absurd h hdev,
      fun _ => ⟨hi, hsel, hd.rst_eq.trans hl.2.2⟩⟩
  | none =>
    obtain ⟨b, step, he, hd⟩ := erase_timeout (s.accepted c) hj
    obtain ⟨hi, _, _⟩ := hd.idle hl.1
    rw [he]
    exact ⟨sane_of_didScans hd.didScans hi, fun h => Bool.noConfusion h⟩

include hs hf in
theorem kept_accepted (c : Byte) (hm : s.dev = .debugMode) :
    Kept (fun b => Sane b ∧ Linked b) (s.accepted c).hostSide (s.accepted c) := ⟨⟨hs, hf.2 hm⟩, rfl⟩

theorem kept_results {α : Type} {P : TapSession → Prop} {h : HostSide} {r : Ran α}
    (hk : Kept P h r.final) (f : α → State → Ran (Word × Word))
    (hf : ∀ a u, (f a u).final = u) : Kept P h (r.andThen f).final := by
  cases r with
  | done a u => rw [show (Ran.done a u).andThen f = f a u from rfl, hf]; exact hk
  | raised e u => exact hk

end session

/-- Every host command's body leaves the session its device state asks for (R43, R171). -/
theorem exec_session {i : Instr} {c : Byte} {s : State} (hi : hostOpcode i = some c) (hs : Sane s.bus)
    (hf : SessionFits s) :
    ∃ op argsOk body, exec i s = .next (runCommand c op argsOk body s) ∧ Checks i c op argsOk s ∧
      (Accepted i s → BodySession (body (s.accepted c))) := by
  have hk := fun c hm => kept_accepted hs hf c hm
  have unk : ∀ u : State, u.dev = .unknown → Sane u.bus → Sane u.bus ∧ SessionFits u := fun u hu h =>
    ⟨h, sessionFits_other (by rw [hu]; decide) (by rw [hu]; decide)⟩
  cases i <;> simp only [hostOpcode, Option.some.injEq, reduceCtorEq] at hi <;> subst hi
  case nop => exact ⟨_, _, _, rfl, checks_nop s, fun _ => ⟨hs, hf⟩⟩
  case clearError => exact ⟨_, _, _, rfl, checks_clearError s, fun _ => ⟨hs, hf⟩⟩
  case waitReady => exact ⟨_, _, _, rfl, checks_waitReady s, fun _ => session_checkStatus _⟩
  case enterPgmMode =>
    refine ⟨_, _, _, rfl, checks_enterPgmMode s, fun ha => session_enterPgmMode hf _ ?_ _⟩
    simpa [allowedNow] using ha.2.1
  case exitPgmMode =>
    refine ⟨_, _, _, rfl, checks_exitPgmMode s, fun _ => ?_⟩
    obtain ⟨b, step, he, hd, hi, _⟩ := exitPgmMode_eq (s.accepted 0x03#8)
    rw [he]
    refine ⟨sane_of_didScans hd hi, sessionFits_other ?_ ?_⟩
    · show ¬ (DevState.reset = .mtapSelected)
      decide
    · show ¬ (DevState.reset = .debugMode)
      decide
  case eraseAll =>
    refine ⟨_, _, _, rfl, checks_eraseAll s, fun ha => session_erase hf _ ?_⟩
    simpa using (by simpa [allowedNow] using ha.2.1 : _ ∧ _).1
  case assertTargetReset =>
    refine ⟨_, _, _, rfl, checks_assertTargetReset s, fun _ => unk _ rfl ?_⟩
    show Sane (State.setRst (s.accepted 0x05#8) _).bus
    rw [setRst_eq]
    exact pulseClosed_sane.rst _ _ hs
  case identify =>
    refine ⟨_, _, _, rfl, checks_identify s, fun ha => ?_⟩
    have hm : s.dev = .debugMode := by simpa [allowedNow] using ha.2.1
    have h := kept_readFlashData wireClosed_sane_linked Param.devidAddr
      ({ s.accepted 0x06#8 with ident := { s.ident with valid := false } } : State) ⟨(hk 0x06#8 hm).1, rfl⟩
    have hid : identifyIn (s.accepted 0x06#8).catalog (s.accepted 0x06#8) =
        (readFlashData Param.devidAddr
          ({ s.accepted 0x06#8 with ident := { s.ident with valid := false } } : State)).andThen
          fun w u => match scanCatalog (w &&& Param.idMask) 0 (s.accepted 0x06#8).catalog with
            | none => .raised ⟨.deviceUnidentified, Param.devidAddr, w, 0#32⟩ u
            | some (i, r) => .done i { u with ident := identOf (w &&& Param.idMask) r } := rfl
    rw [hid]
    cases hr : readFlashData Param.devidAddr
        ({ s.accepted 0x06#8 with ident := { s.ident with valid := false } } : State) with
    | raised e u =>
      rw [hr] at h
      exact BodySession.of_kept (r := .raised e u) h hm
    | done w u =>
      rw [hr] at h
      simp only [Ran.andThen]
      cases scanCatalog (w &&& Param.idMask) 0 (s.accepted 0x06#8).catalog with
      | none => exact BodySession.of_kept (r := .raised _ u) h hm
      | some p =>
        have := BodySession.of_kept (r := .done (0#32, 0#32) u) h hm
        exact ⟨this.1, this.2⟩
  case programWord =>
    refine ⟨_, _, _, rfl, checks_programWord s, fun ha => ?_⟩
    have hm : s.dev = .debugMode := by simpa using (by simpa [allowedNow] using ha.2.1 : _ ∧ _).1
    exact BodySession.of_kept (kept_results
      (kept_programWord wireClosed_sane_linked _ _ _ (hk 0x07#8 hm)) _ fun _ _ => rfl) hm
  case readWord =>
    refine ⟨_, _, _, rfl, checks_readWord s, fun ha => ?_⟩
    have hm : s.dev = .debugMode := by simpa [allowedNow] using ha.2.1
    exact BodySession.of_kept (kept_results
      (kept_readFlashData wireClosed_sane_linked _ _ (hk 0x08#8 hm)) _ fun _ _ => rfl) hm
  case verifyWord =>
    refine ⟨_, _, _, rfl, checks_verifyWord s, fun ha => ?_⟩
    have hm : s.dev = .debugMode := by simpa [allowedNow] using ha.2.1
    exact BodySession.of_kept (kept_results
      (kept_readFlashData wireClosed_sane_linked _ _ (hk 0x09#8 hm)) _
      fun _ _ => by split <;> rfl) hm
  case downloadData =>
    refine ⟨_, _, _, rfl, checks_downloadData s, fun ha => ?_⟩
    have hm : s.dev = .debugMode := by simpa [allowedNow] using ha.2.1
    exact BodySession.of_kept (kept_results
      (kept_downloadData wireClosed_sane_linked _ _ _ (hk 0x0A#8 hm)) _ fun _ _ => rfl) hm
  case flashOperation =>
    refine ⟨_, _, _, rfl, checks_flashOperation s, fun ha => ?_⟩
    have hm : s.dev = .debugMode := by simpa using (by simpa [allowedNow] using ha.2.1 : _ ∧ _).1
    exact BodySession.of_kept (kept_results
      (kept_flashOperation wireClosed_sane_linked _ _ _ _ (hk 0x0B#8 hm)) _
      fun _ _ => by split <;> rfl) hm
  case rawSetMode =>
    exact ⟨_, _, _, rfl, checks_rawSetMode s, fun _ => unk _ rfl (pulseClosed_sane.setMode _ _ _ hs)⟩
  case rawSendCommand =>
    exact ⟨_, _, _, rfl, checks_rawSendCommand s, fun _ => unk _ rfl (pulseClosed_sane.sendCommand _ _ _ hs)⟩
  case rawXferData =>
    exact ⟨_, _, _, rfl, checks_rawXferData s, fun _ => unk _ rfl (pulseClosed_sane.xferData _ _ _ hs)⟩
  case rawXferFastData =>
    exact ⟨_, _, _, rfl, checks_rawXferFastData s, fun _ => unk _ rfl (pulseClosed_sane.fastDataScan _ _ hs)⟩
  case rawXferInstruction =>
    refine ⟨_, _, _, rfl, checks_rawXferInstruction s, fun _ => unk _ ?_ ?_⟩
    · exact (congrArg HostSide.dev (xferInstruction_hostSide (dropSession (s.accepted 0x14#8)) s.arg0) : _)
    · exact (kept_xferInstruction pulseClosed_sane.wire s.arg0 (dropSession (s.accepted 0x14#8))
        ⟨hs, rfl⟩).1

/-! ### The ends of a command and the invariant -/

/-- A response leaves what the invariant asks of the session, the device and the latch. -/
theorem inv_respond {u : State} (code : BitVec 4) (r0 r1 : Word)
    (hi : u.ident.valid = true → u.dev = .debugMode) (hs : Sane u.bus) (hf : SessionFits u)
    (he : u.fatal = true ↔ 1 ≤ u.err.code.toNat ∧ u.err.code.toNat ≤ 5) :
    EngineInv (respond code r0 r1 u) := (inv_iff _).mpr ⟨hi, hf, hs, ⟨rfl, rfl⟩, he⟩

/-- The end of a command keeps the session its body left (R212, R250). -/
theorem session_finish (c : Byte) {r : Ran (Word × Word)} (h : BodySession r) :
    Sane (finish c r).bus ∧ SessionFits (finish c r) := by
  cases r with
  | done a u => exact h
  | raised e u =>
    refine ⟨by rw [finish, raise_bus]; exact h.1, ?_⟩
    cases hd : dropsDev e.kind with
    | true =>
      have h1 : (finish c (.raised e u)).dev = .unknown := (raise_dropped c e u hd).1
      exact sessionFits_other (by rw [h1]; decide) (by rw [h1]; decide)
    | false =>
      have h1 : (finish c (.raised e u)).dev = u.dev := (raise_kept c e u hd).1
      have h2 : (finish c (.raised e u)).bus = u.bus := raise_bus c e u
      have := h.2 hd
      rw [SessionFits, h1, h2]; exact this

/-- An error taken sets the latch with its code (R250, R43 I6). -/
theorem raise_latch (c : Byte) (e : RaiseInfo) (u : State) :
    (raise c e u).fatal = true ↔
      1 ≤ (raise c e u).err.code.toNat ∧ (raise c e u).err.code.toNat ≤ 5 := by
  have hr := raised_raise c e u
  rw [hr.1, hr.2.1]
  exact ⟨fun _ => errorCode_range _, fun _ => rfl⟩

/-- An error taken leaves no valid identity outside DebugMode (R250, R43 I1). -/
theorem raise_ident (c : Byte) (e : RaiseInfo) (u : State)
    (hi : u.ident.valid = true → u.dev = .debugMode) :
    (raise c e u).ident.valid = true → (raise c e u).dev = .debugMode := by
  cases hd : dropsDev e.kind with
  | true =>
    intro hv
    rw [(raise_dropped c e u hd).2] at hv
    exact Bool.noConfusion hv
  | false =>
    obtain ⟨h1, h2⟩ := raise_kept c e u hd
    rw [h1, h2]; exact hi

/-- A refusal leaves the invariant (R252). -/
theorem inv_refused {s : State} (code : Word) (h : EngineInv s) : EngineInv (refusedState code s) := by
  obtain ⟨h1, h2, h3, _, h5⟩ := (inv_iff s).mp h
  exact (inv_iff _).mpr ⟨h1, h2, h3, ⟨rfl, rfl⟩, h5⟩

/-- A command whose body ends OK in Unknown, the identity dropped, the latch kept. -/
theorem inv_rawCommand {c : Byte} {argsOk : Bool} {body : State → Ran (Word × Word)} {s : State}
    (h : EngineInv s) (hb : ∃ r u, body (s.accepted c) = .done r u ∧ Sane u.bus ∧ u.dev = .unknown ∧
      u.ident.valid = false ∧ LatchKept s u) : EngineInv (runCommand c .rawTap argsOk body s) := by
  obtain ⟨r, u, he, hs, hd, hv, hl⟩ := hb
  rcases runCommand_cases c .rawTap argsOk body s with ⟨k, hk⟩ | ⟨r', u', hr, hk⟩ | ⟨e, u', hr, hk⟩
  · rw [hk]; exact inv_refused _ h
  · rw [hk]
    obtain ⟨rfl, rfl⟩ := Ran.done.inj (hr.symm.trans he)
    refine inv_respond _ _ _ (fun hv' => ?_) hs
      (sessionFits_other (by rw [hd]; decide) (by rw [hd]; decide)) ?_
    · rw [hv] at hv'; exact Bool.noConfusion hv'
    · rw [hl.1, hl.2]; exact ((inv_iff s).mp h).2.2.2.2
  · rw [he] at hr; exact Ran.noConfusion rfl (heq_of_eq hr)

section raw
variable {s : State} (h : EngineInv s)
include h

theorem inv_rawSetMode (bits v : Word) : EngineInv (rawSetMode bits v s) :=
  inv_rawCommand h ⟨_, _, rfl, pulseClosed_sane.setMode _ _ _ ((inv_iff s).mp h).2.2.1, rfl, rfl, rfl, rfl⟩

theorem inv_rawSendCommand (bits v : Word) : EngineInv (rawSendCommand bits v s) :=
  inv_rawCommand h
    ⟨_, _, rfl, pulseClosed_sane.sendCommand _ _ _ ((inv_iff s).mp h).2.2.1, rfl, rfl, rfl, rfl⟩

theorem inv_rawXferData (bits v : Word) : EngineInv (rawXferData bits v s) :=
  inv_rawCommand h
    ⟨_, _, rfl, pulseClosed_sane.xferData _ _ _ ((inv_iff s).mp h).2.2.1, rfl, rfl, rfl, rfl⟩

theorem inv_rawXferFastData (v : Word) : EngineInv (rawXferFastData v s) :=
  inv_rawCommand h
    ⟨_, _, rfl, pulseClosed_sane.fastDataScan _ _ ((inv_iff s).mp h).2.2.1, rfl, rfl, rfl, rfl⟩

theorem inv_rawXferInstruction (v : Word) : EngineInv (rawXferInstruction v s) := by
  have hk := kept_xferInstruction pulseClosed_sane.wire v (dropSession (s.accepted 0x14#8))
    ⟨((inv_iff s).mp h).2.2.1, rfl⟩
  exact inv_rawCommand h ⟨_, _, rfl, hk.1, congrArg HostSide.dev hk.2,
    congrArg (fun x => x.ident.valid) hk.2, congrArg HostSide.fatal hk.2, congrArg HostSide.err hk.2⟩

end raw

end Sys2Proof.Machine
end

