-- ==== Sys2Proof/Laws/PerInstr.lean ====
section
/-! SUPPORT. The family DecodesBack, one lemma for each constructor of `Instr`: the word of the instruction,
with every operand at every value its row admits, decodes back to it whatever bytes follow (R90 to
R113). -/

namespace Sys2Proof.Laws

/-- Decoding the encoding of a well-formed instruction, in its format, gives it back and leaves the bytes
after its word. -/
def DecodesBack.Statement (i : Instr) : Prop :=
  ∀ rest : List Byte, i.wellFormed = true → decode (formatOf i) (encode i ++ rest) = .ok (i, rest)

namespace DecodesBack

/-- A word with no operand. -/
theorem fixed (n : Nat) {i : Instr} (hn : 8 * formatBytes (formatOf i) = n) (hc : (code i).toNat < 2 ^ n)
    (hr : decodeRow (formatOf i) (code i) = some i) : Statement i :=
  fun rest hw => decodes_back (hn ▸ hc) hr rest hw

theorem nop : Statement .nop := fixed 8 rfl (by decide) (by decide)
theorem waitReady : Statement .waitReady := fixed 8 rfl (by decide) (by decide)
theorem enterPgmMode : Statement .enterPgmMode := fixed 8 rfl (by decide) (by decide)
theorem exitPgmMode : Statement .exitPgmMode := fixed 8 rfl (by decide) (by decide)
theorem eraseAll : Statement .eraseAll := fixed 8 rfl (by decide) (by decide)
theorem assertTargetReset : Statement .assertTargetReset := fixed 8 rfl (by decide) (by decide)
theorem identify : Statement .identify := fixed 8 rfl (by decide) (by decide)
theorem programWord : Statement .programWord := fixed 8 rfl (by decide) (by decide)
theorem readWord : Statement .readWord := fixed 8 rfl (by decide) (by decide)
theorem verifyWord : Statement .verifyWord := fixed 8 rfl (by decide) (by decide)
theorem downloadData : Statement .downloadData := fixed 8 rfl (by decide) (by decide)
theorem flashOperation : Statement .flashOperation := fixed 8 rfl (by decide) (by decide)
theorem clearError : Statement .clearError := fixed 8 rfl (by decide) (by decide)
theorem rawSetMode : Statement .rawSetMode := fixed 8 rfl (by decide) (by decide)
theorem rawSendCommand : Statement .rawSendCommand := fixed 8 rfl (by decide) (by decide)
theorem rawXferData : Statement .rawXferData := fixed 8 rfl (by decide) (by decide)
theorem rawXferFastData : Statement .rawXferFastData := fixed 8 rfl (by decide) (by decide)
theorem rawXferInstruction : Statement .rawXferInstruction := fixed 8 rfl (by decide) (by decide)
theorem reserved0C (low : BitVec 1) : Statement (.reserved0C low) := by
  have h : ∀ low : BitVec 1, (code (.reserved0C low)).toNat < 2 ^ 8 ∧
    decodeRow .hostcmd (code (.reserved0C low)) = some (.reserved0C low) := by decide +kernel
  exact fixed 8 rfl (h low).1 (h low).2
theorem reserved0F : Statement .reserved0F := fixed 8 rfl (by decide) (by decide)
theorem reserved15 : Statement .reserved15 := fixed 8 rfl (by decide) (by decide)
theorem reserved16 (low : BitVec 1) : Statement (.reserved16 low) := by
  have h : ∀ low : BitVec 1, (code (.reserved16 low)).toNat < 2 ^ 8 ∧
    decodeRow .hostcmd (code (.reserved16 low)) = some (.reserved16 low) := by decide +kernel
  exact fixed 8 rfl (h low).1 (h low).2
theorem reserved18 (low : BitVec 3) : Statement (.reserved18 low) := by
  have h : ∀ low : BitVec 3, (code (.reserved18 low)).toNat < 2 ^ 8 ∧
    decodeRow .hostcmd (code (.reserved18 low)) = some (.reserved18 low) := by decide +kernel
  exact fixed 8 rfl (h low).1 (h low).2
theorem reserved20 (low : BitVec 5) : Statement (.reserved20 low) := by
  have h : ∀ low : BitVec 5, (code (.reserved20 low)).toNat < 2 ^ 8 ∧
    decodeRow .hostcmd (code (.reserved20 low)) = some (.reserved20 low) := by decide +kernel
  exact fixed 8 rfl (h low).1 (h low).2
theorem reserved40 (low : BitVec 6) : Statement (.reserved40 low) := by
  have h : ∀ low : BitVec 6, (code (.reserved40 low)).toNat < 2 ^ 8 ∧
    decodeRow .hostcmd (code (.reserved40 low)) = some (.reserved40 low) := by decide +kernel
  exact fixed 8 rfl (h low).1 (h low).2
theorem reserved80 (low : BitVec 7) : Statement (.reserved80 low) := by
  have h : ∀ low : BitVec 7, (code (.reserved80 low)).toNat < 2 ^ 8 ∧
    decodeRow .hostcmd (code (.reserved80 low)) = some (.reserved80 low) := by decide +kernel
  exact fixed 8 rfl (h low).1 (h low).2
theorem setMode6TapReset : Statement .setMode6TapReset := fixed 8 rfl (by decide) (by decide)
theorem sendCommand5 (opcode : BitVec 5) : Statement (.sendCommand5 opcode) := by
  refine fixed 16 rfl (toNat_field_lt opcode 4 16 (by decide)) ?_
  have hm : ∀ j < 40, 4 ≤ j → j < 4 + 5 → (~~~0x1F0#40).getLsbD j = false := by decide
  have h1 : code (.sendCommand5 opcode) &&& ~~~0x1F0#40 = 0#40 :=
    outside_field opcode 4 (~~~0x1F0#40) fun j h1 h2 => hm j (by omega) h1 h2
  have h2 : (code (.sendCommand5 opcode)).extractLsb' 4 5 = opcode := extract_field opcode 4 (by decide)
  change decodeIrScan _ = _
  rw [decodeIrScan, if_pos h1, h2]
theorem xferData8 (value : Byte) : Statement (.xferData8 value) := by
  refine fixed 16 rfl (toNat_field_lt value 3 16 (by decide)) ?_
  have hm : ∀ j < 40, 3 ≤ j → j < 3 + 8 → (~~~0x7F8#40).getLsbD j = false := by decide
  have h1 : code (.xferData8 value) &&& ~~~0x7F8#40 = 0#40 :=
    outside_field value 3 (~~~0x7F8#40) fun j h1 h2 => hm j (by omega) h1 h2
  have h2 : (code (.xferData8 value)).extractLsb' 3 8 = value := extract_field value 3 (by decide)
  change decodeDrScan8 _ = _
  rw [decodeDrScan8, if_pos h1, h2]
theorem xferData32 (value : Word) : Statement (.xferData32 value) := by
  refine fixed 40 rfl (toNat_field_lt value 3 40 (by decide)) ?_
  have hm : ∀ j < 40, 3 ≤ j → j < 3 + 32 → (~~~0x7FFFFFFF8#40).getLsbD j = false := by decide
  have h1 : code (.xferData32 value) &&& ~~~0x7FFFFFFF8#40 = 0#40 :=
    outside_field value 3 (~~~0x7FFFFFFF8#40) fun j h1 h2 => hm j (by omega) h1 h2
  have h2 : (code (.xferData32 value)).extractLsb' 3 32 = value := extract_field value 3 (by decide)
  change decodeDrScan32 _ = _
  rw [decodeDrScan32, if_pos h1, h2]
theorem xferFastData (value : Word) : Statement (.xferFastData value) := by
  refine fixed 40 rfl (toNat_field_lt value 4 40 (by decide)) ?_
  have hm : ∀ j < 40, 4 ≤ j → j < 4 + 32 → (~~~0xFFFFFFFF0#40).getLsbD j = false := by decide
  have h1 : code (.xferFastData value) &&& ~~~0xFFFFFFFF0#40 = 0#40 :=
    outside_field value 4 (~~~0xFFFFFFFF0#40) fun j h1 h2 => hm j (by omega) h1 h2
  have h2 : (code (.xferFastData value)).extractLsb' 4 32 = value := extract_field value 4 (by decide)
  change decodeFdScan _ = _
  rw [decodeFdScan, if_pos h1, h2]
theorem mtapSwMtap : Statement .mtapSwMtap := fixed 8 rfl (by decide) (by decide)
theorem mtapSwEtap : Statement .mtapSwEtap := fixed 8 rfl (by decide) (by decide)
theorem mtapCommand : Statement .mtapCommand := fixed 8 rfl (by decide) (by decide)
theorem etapData : Statement .etapData := fixed 8 rfl (by decide) (by decide)
theorem etapControl : Statement .etapControl := fixed 8 rfl (by decide) (by decide)
theorem etapEjtagboot : Statement .etapEjtagboot := fixed 8 rfl (by decide) (by decide)
theorem etapFastdata : Statement .etapFastdata := fixed 8 rfl (by decide) (by decide)
theorem mchpStatus : Statement .mchpStatus := fixed 8 rfl (by decide) (by decide)
theorem mchpErase : Statement .mchpErase := fixed 8 rfl (by decide) (by decide)
theorem ctrlResume : Statement .ctrlResume := fixed 32 rfl (by decide) (by decide)
theorem ctrlProceed : Statement .ctrlProceed := fixed 32 rfl (by decide) (by decide)
theorem lui (rt : BitVec 5) (imm : Half) : Statement (.lui rt imm) := by
  have e : code (.lui rt imm) = itypeWord 0x3C000000#40 0#5 rt imm := by simp [code, itypeWord]
  have hm : ∀ k, k < 26 → (0x3C000000#40).getLsbD k = false := by decide
  refine fixed 32 rfl (by rw [e]; exact itypeWord_lt _ _ _ (by decide)) ?_
  simp only [e, decodeRow, formatOf, decodeMips, major_itypeWord, rtField_itypeWord 0#5 rt imm hm,
    rsField_itypeWord 0#5 rt imm hm, immField_itypeWord 0#5 rt imm hm]
  rfl
theorem ori (rt rs : BitVec 5) (imm : Half) : Statement (.ori rt rs imm) := by
  have e : code (.ori rt rs imm) = itypeWord 0x34000000#40 rs rt imm := rfl
  have hm : ∀ k, k < 26 → (0x34000000#40).getLsbD k = false := by decide
  refine fixed 32 rfl (by rw [e]; exact itypeWord_lt _ _ _ (by decide)) ?_
  simp only [e, decodeRow, formatOf, decodeMips, major_itypeWord, rtField_itypeWord rs rt imm hm,
    rsField_itypeWord rs rt imm hm, immField_itypeWord rs rt imm hm]
  rfl
theorem andi (rt rs : BitVec 5) (imm : Half) : Statement (.andi rt rs imm) := by
  have e : code (.andi rt rs imm) = itypeWord 0x30000000#40 rs rt imm := rfl
  have hm : ∀ k, k < 26 → (0x30000000#40).getLsbD k = false := by decide
  refine fixed 32 rfl (by rw [e]; exact itypeWord_lt _ _ _ (by decide)) ?_
  simp only [e, decodeRow, formatOf, decodeMips, major_itypeWord, rtField_itypeWord rs rt imm hm,
    rsField_itypeWord rs rt imm hm, immField_itypeWord rs rt imm hm]
  rfl
theorem sw (rt : BitVec 5) (imm : Half) (rs : BitVec 5) : Statement (.sw rt imm rs) := by
  have e : code (.sw rt imm rs) = itypeWord 0xAC000000#40 rs rt imm := rfl
  have hm : ∀ k, k < 26 → (0xAC000000#40).getLsbD k = false := by decide
  refine fixed 32 rfl (by rw [e]; exact itypeWord_lt _ _ _ (by decide)) ?_
  simp only [e, decodeRow, formatOf, decodeMips, major_itypeWord, rtField_itypeWord rs rt imm hm,
    rsField_itypeWord rs rt imm hm, immField_itypeWord rs rt imm hm]
  rfl
theorem lw (rt : BitVec 5) (imm : Half) (rs : BitVec 5) : Statement (.lw rt imm rs) := by
  have e : code (.lw rt imm rs) = itypeWord 0x8C000000#40 rs rt imm := rfl
  have hm : ∀ k, k < 26 → (0x8C000000#40).getLsbD k = false := by decide
  refine fixed 32 rfl (by rw [e]; exact itypeWord_lt _ _ _ (by decide)) ?_
  simp only [e, decodeRow, formatOf, decodeMips, major_itypeWord, rtField_itypeWord rs rt imm hm,
    rsField_itypeWord rs rt imm hm, immField_itypeWord rs rt imm hm]
  rfl
theorem bne (rs rt : BitVec 5) (imm : Half) : Statement (.bne rs rt imm) := by
  have e : code (.bne rs rt imm) = itypeWord 0x14000000#40 rs rt imm := by
    simp only [code, itypeWord, BitVec.or_assoc]; rw [BitVec.or_comm (rt.setWidth 40 <<< 16)]
  have hm : ∀ k, k < 26 → (0x14000000#40).getLsbD k = false := by decide
  refine fixed 32 rfl (by rw [e]; exact itypeWord_lt _ _ _ (by decide)) ?_
  simp only [e, decodeRow, formatOf, decodeMips, major_itypeWord, rtField_itypeWord rs rt imm hm,
    rsField_itypeWord rs rt imm hm, immField_itypeWord rs rt imm hm]
  rfl
theorem mipsNop : Statement .mipsNop := fixed 32 rfl (by decide) (by decide)
theorem preP0 : Statement .preP0 := fixed 32 rfl (by decide) (by decide)
theorem preP1 : Statement .preP1 := fixed 32 rfl (by decide) (by decide)
theorem dlD0 : Statement .dlD0 := fixed 32 rfl (by decide) (by decide)
theorem dlD1 (hole : Half) : Statement (.dlD1 hole) :=
  fixed 32 rfl (toNat_or_lt (a := 0x3C080000#40) (n := 32) (by decide) (toNat_low_lt hole 32 (by decide)))
    (holedWord_filled 0x3C080000#40 hole .dlD1 (by decide) (by decide))
theorem dlD2 (hole : Half) : Statement (.dlD2 hole) :=
  fixed 32 rfl (toNat_or_lt (a := 0x35080000#40) (n := 32) (by decide) (toNat_low_lt hole 32 (by decide)))
    (holedWord_filled 0x35080000#40 hole .dlD2 (by decide) (by decide))
theorem dlD3 (hole : Half) : Statement (.dlD3 hole) :=
  fixed 32 rfl (toNat_or_lt (a := 0xAE080000#40) (n := 32) (by decide) (toNat_low_lt hole 32 (by decide)))
    (holedWord_filled 0xAE080000#40 hole .dlD3 (by decide) (by decide))
theorem dlD4 : Statement .dlD4 := fixed 32 rfl (by decide) (by decide)
theorem foF0 : Statement .foF0 := fixed 32 rfl (by decide) (by decide)
theorem foF1 : Statement .foF1 := fixed 32 rfl (by decide) (by decide)
theorem foF2 (hole : Half) : Statement (.foF2 hole) :=
  fixed 32 rfl (toNat_or_lt (a := 0x3C080000#40) (n := 32) (by decide) (toNat_low_lt hole 32 (by decide)))
    (holedWord_filled 0x3C080000#40 hole .foF2 (by decide) (by decide))
theorem foF3 (hole : Half) : Statement (.foF3 hole) :=
  fixed 32 rfl (toNat_or_lt (a := 0x35080000#40) (n := 32) (by decide) (toNat_low_lt hole 32 (by decide)))
    (holedWord_filled 0x35080000#40 hole .foF3 (by decide) (by decide))
theorem foF4 : Statement .foF4 := fixed 32 rfl (by decide) (by decide)
theorem foF5 (hole : Half) : Statement (.foF5 hole) :=
  fixed 32 rfl (toNat_or_lt (a := 0x34080000#40) (n := 32) (by decide) (toNat_low_lt hole 32 (by decide)))
    (holedWord_filled 0x34080000#40 hole .foF5 (by decide) (by decide))
theorem foF6 : Statement .foF6 := fixed 32 rfl (by decide) (by decide)
theorem foF7 (op : BitVec 4) : Statement (.foF7 op) := by
  have h : ∀ op : BitVec 4, (code (.foF7 op)).toNat < 2 ^ 32 ∧
    decodeRow (.injFo 7) (code (.foF7 op)) = some (.foF7 op) := by decide +kernel
  exact fixed 32 rfl (h op).1 (h op).2
theorem foF8 : Statement .foF8 := fixed 32 rfl (by decide) (by decide)
theorem foF9 : Statement .foF9 := fixed 32 rfl (by decide) (by decide)
theorem foF10 : Statement .foF10 := fixed 32 rfl (by decide) (by decide)
theorem foF11 : Statement .foF11 := fixed 32 rfl (by decide) (by decide)
theorem foF12 : Statement .foF12 := fixed 32 rfl (by decide) (by decide)
theorem foF13 : Statement .foF13 := fixed 32 rfl (by decide) (by decide)
theorem foF14 : Statement .foF14 := fixed 32 rfl (by decide) (by decide)
theorem foF15 : Statement .foF15 := fixed 32 rfl (by decide) (by decide)
theorem foF16 : Statement .foF16 := fixed 32 rfl (by decide) (by decide)
theorem foF17 : Statement .foF17 := fixed 32 rfl (by decide) (by decide)
theorem foF18 : Statement .foF18 := fixed 32 rfl (by decide) (by decide)
theorem foF19 : Statement .foF19 := fixed 32 rfl (by decide) (by decide)
theorem foF20 : Statement .foF20 := fixed 32 rfl (by decide) (by decide)
theorem foF21 : Statement .foF21 := fixed 32 rfl (by decide) (by decide)
theorem foF22 : Statement .foF22 := fixed 32 rfl (by decide) (by decide)
theorem foF23 : Statement .foF23 := fixed 32 rfl (by decide) (by decide)
theorem foF24 : Statement .foF24 := fixed 32 rfl (by decide) (by decide)
theorem foF25 : Statement .foF25 := fixed 32 rfl (by decide) (by decide)
theorem foF26 : Statement .foF26 := fixed 32 rfl (by decide) (by decide)
theorem foF27 : Statement .foF27 := fixed 32 rfl (by decide) (by decide)
theorem foF28 : Statement .foF28 := fixed 32 rfl (by decide) (by decide)
theorem foF29 : Statement .foF29 := fixed 32 rfl (by decide) (by decide)
theorem rdA0 : Statement .rdA0 := fixed 32 rfl (by decide) (by decide)
theorem rdA1 (hole : Half) : Statement (.rdA1 hole) :=
  fixed 32 rfl (toNat_or_lt (a := 0x3C080000#40) (n := 32) (by decide) (toNat_low_lt hole 32 (by decide)))
    (holedWord_filled 0x3C080000#40 hole .rdA1 (by decide) (by decide))
theorem rdA2 (hole : Half) : Statement (.rdA2 hole) :=
  fixed 32 rfl (toNat_or_lt (a := 0x35080000#40) (n := 32) (by decide) (toNat_low_lt hole 32 (by decide)))
    (holedWord_filled 0x35080000#40 hole .rdA2 (by decide) (by decide))
theorem rdA3 : Statement .rdA3 := fixed 32 rfl (by decide) (by decide)
theorem rdA4 : Statement .rdA4 := fixed 32 rfl (by decide) (by decide)
theorem rspOk : Statement .rspOk := fixed 8 rfl (by decide) (by decide)
theorem rspBusTimeout : Statement .rspBusTimeout := fixed 8 rfl (by decide) (by decide)
theorem rspProtocolFraming : Statement .rspProtocolFraming := fixed 8 rfl (by decide) (by decide)
theorem rspNvmControllerError : Statement .rspNvmControllerError := fixed 8 rfl (by decide) (by decide)
theorem rspDeviceUnidentified : Statement .rspDeviceUnidentified := fixed 8 rfl (by decide) (by decide)
theorem rspVerifyMismatch : Statement .rspVerifyMismatch := fixed 8 rfl (by decide) (by decide)
theorem rspIllegalState : Statement .rspIllegalState := fixed 8 rfl (by decide) (by decide)
theorem rspBadArgument : Statement .rspBadArgument := fixed 8 rfl (by decide) (by decide)
theorem rspSessionFatal : Statement .rspSessionFatal := fixed 8 rfl (by decide) (by decide)
theorem rspUnknownOpcode : Statement .rspUnknownOpcode := fixed 8 rfl (by decide) (by decide)

end DecodesBack

end Sys2Proof.Laws
end

