-- ==== Sys2Proof/Tests/Slice0.lean ====
section
/-! SUPPORT. Tests of the model by named theorems: ill-formed terms refused, one word of every row written
out from its encoding, single steps from the vectors of 95_test_vectors.md, and for every obligation with
hypotheses a concrete state that meets them. Expected values are the spec's own or computed by hand from its
rules. -/

namespace Sys2Proof.Machine.Tests

open Sys2Proof Sys2Proof.Machine

-- One theorem after another: each kernel evaluation otherwise waits in a thread of its own.
set_option Elab.async false

/-! ### WellFormed: an ill-formed term for each check -/

/-- A `ramAddr` hole off a word, and one past 0x7FFC (R65). -/
theorem test_ramHole_refused :
    (Instr.dlD3 0x7FFE#16).wellFormed = false ∧ (Instr.dlD3 0x8000#16).wellFormed = false ∧
    (Instr.foF5 0x0002#16).wellFormed = false ∧ (Instr.foF5 0x8000#16).wellFormed = false := by decide

/-- The low half of an address off a word (R69). -/
theorem test_alignedHole_refused :
    (Instr.foF3 0x0002#16).wellFormed = false ∧ (Instr.rdA2 0xF221#16).wellFormed = false := by decide

/-- An operation code outside the four (R113), and a high half without the two bits of KSEG1_OR (R110). -/
theorem test_opAndKsegHole_refused :
    (Instr.foF7 2#4).wellFormed = false ∧ (Instr.foF7 6#4).wellFormed = false ∧
    (Instr.rdA1 0x1D00#16).wellFormed = false ∧ (Instr.rdA1 0x8000#16).wellFormed = false := by decide

/-- The decoder answers the same terms' bits with the refusal that names the check. -/
theorem test_decode_refuses_illFormed :
    decode (.injDl 3) [0xFE#8, 0x7F#8, 0x08#8, 0xAE#8] = .error (.illFormed (.injDl 3)) ∧
    decode (.injFo 7) [0x02#8, 0x40#8, 0x08#8, 0x34#8] = .error (.illFormed (.injFo 7)) ∧
    decode (.injRd 1) [0x00#8, 0x1D#8, 0x08#8, 0x3C#8] = .error (.illFormed (.injRd 1)) ∧
    decode .tapir [0x06#8] = .error (.noSuchWord .tapir) ∧
    decode .hostrsp [0x07#8] = .error (.noSuchWord .hostrsp) ∧
    decode .mips32i [0x00#8, 0x00#8, 0x09#8] = .error (.truncated .mips32i) := by decide +kernel

/-! ### Decode: a word of every row, written out from its encoding -/

/-- The bytes of a 32-bit word, least significant first. -/
def bytes4 (b3 b2 b1 b0 : Nat) : List Byte := [b0, b1, b2, b3].map (BitVec.ofNat 8)

/-- The bytes decode in the format to the instruction, with nothing left. -/
def reads (format : Format) (bytes : List Byte) (i : Instr) : Bool :=
  decide (decode format bytes = .ok (i, []))

/-- The opcode map (R100). -/
theorem test_decode_hostcmd :
    (reads .hostcmd [0x00#8] .nop && reads .hostcmd [0x01#8] .waitReady &&
    reads .hostcmd [0x02#8] .enterPgmMode && reads .hostcmd [0x03#8] .exitPgmMode &&
    reads .hostcmd [0x04#8] .eraseAll && reads .hostcmd [0x05#8] .assertTargetReset &&
    reads .hostcmd [0x06#8] .identify && reads .hostcmd [0x07#8] .programWord &&
    reads .hostcmd [0x08#8] .readWord && reads .hostcmd [0x09#8] .verifyWord &&
    reads .hostcmd [0x0A#8] .downloadData && reads .hostcmd [0x0B#8] .flashOperation &&
    reads .hostcmd [0x0E#8] .clearError && reads .hostcmd [0x10#8] .rawSetMode &&
    reads .hostcmd [0x11#8] .rawSendCommand && reads .hostcmd [0x12#8] .rawXferData &&
    reads .hostcmd [0x13#8] .rawXferFastData && reads .hostcmd [0x14#8] .rawXferInstruction) = true := by
  decide +kernel

/-- The reserved opcodes (R111), both ends of each range. -/
theorem test_decode_reserved :
    (reads .hostcmd [0x0C#8] (.reserved0C 0#1) && reads .hostcmd [0x0D#8] (.reserved0C 1#1) &&
    reads .hostcmd [0x0F#8] .reserved0F && reads .hostcmd [0x15#8] .reserved15 &&
    reads .hostcmd [0x16#8] (.reserved16 0#1) && reads .hostcmd [0x17#8] (.reserved16 1#1) &&
    reads .hostcmd [0x18#8] (.reserved18 0#3) && reads .hostcmd [0x1F#8] (.reserved18 7#3) &&
    reads .hostcmd [0x20#8] (.reserved20 0#5) && reads .hostcmd [0x3F#8] (.reserved20 31#5) &&
    reads .hostcmd [0x40#8] (.reserved40 0#6) && reads .hostcmd [0x7F#8] (.reserved40 63#6) &&
    reads .hostcmd [0x80#8] (.reserved80 0#7) && reads .hostcmd [0xFF#8] (.reserved80 127#7)) = true := by
  decide +kernel

/-- The TDI rows of the frames: B1.2, B1.3 and R92 to R95. `XferData(32, 0x0004C000)` has TDI 1 on pulses
17, 18 and 21 (B1.7); `XferFastData(0x80000001)` on pulses 4 and 35 (B1.9). -/
theorem test_decode_frames :
    (reads .mode [0x00#8] .setMode6TapReset && reads .irscan [0x40#8, 0x00#8] (.sendCommand5 0x04#5) &&
    reads .irscan [0xE0#8, 0x00#8] (.sendCommand5 0x0E#5) &&
    reads .drscan8 [0xE0#8, 0x07#8] (.xferData8 0xFC#8) &&
    reads .drscan32 [0x00#8, 0x00#8, 0x26#8, 0x00#8, 0x00#8] (.xferData32 0x0004C000#32) &&
    reads .fdscan [0x10#8, 0x00#8, 0x00#8, 0x00#8, 0x08#8] (.xferFastData 0x80000001#32)) = true := by
  decide +kernel

/-- TAPIR, MCHP8 and CTRL32 (R102 to R104). -/
theorem test_decode_tap_words :
    (reads .tapir [0x04#8] .mtapSwMtap && reads .tapir [0x05#8] .mtapSwEtap &&
    reads .tapir [0x07#8] .mtapCommand && reads .tapir [0x09#8] .etapData &&
    reads .tapir [0x0A#8] .etapControl && reads .tapir [0x0C#8] .etapEjtagboot &&
    reads .tapir [0x0E#8] .etapFastdata && reads .mchp8 [0x00#8] .mchpStatus &&
    reads .mchp8 [0xFC#8] .mchpErase && reads .ctrl32 (bytes4 0x00 0x04 0xC0 0x00) .ctrlResume &&
    reads .ctrl32 (bytes4 0x00 0x00 0xC0 0x00) .ctrlProceed) = true := by decide +kernel

/-- MIPS32I (R105), the words of the table B7. -/
theorem test_decode_mips32i :
    (reads .mips32i (bytes4 0x3C 0x04 0xBF 0x80) (.lui 4#5 0xBF80#16) &&
    reads .mips32i (bytes4 0x35 0x08 0xBE 0xEF) (.ori 8#5 8#5 0xBEEF#16) &&
    reads .mips32i (bytes4 0x34 0x0A 0x80 0x00) (.ori 10#5 0#5 0x8000#16) &&
    reads .mips32i (bytes4 0x31 0x08 0x80 0x00) (.andi 8#5 8#5 0x8000#16) &&
    reads .mips32i (bytes4 0xAC 0x88 0x00 0x30) (.sw 8#5 0x0030#16 4#5) &&
    reads .mips32i (bytes4 0x8D 0x09 0x00 0x00) (.lw 9#5 0#16 8#5) &&
    reads .mips32i (bytes4 0x15 0x00 0xFF 0xFD) (.bne 8#5 0#5 0xFFFD#16) &&
    reads .mips32i (bytes4 0x00 0x00 0x00 0x00) .mipsNop) = true := by decide +kernel

/-- PRE, DL and RD (R107, R108, R110), the words of B3.5, B3.8 and B3.10. -/
theorem test_decode_pre_dl_rd :
    (reads (.injPre 0) (bytes4 0x3C 0x04 0xBF 0x80) .preP0 &&
    reads (.injPre 1) (bytes4 0x34 0x84 0xF4 0x00) .preP1 &&
    reads (.injDl 0) (bytes4 0x3C 0x10 0xA0 0x00) .dlD0 &&
    reads (.injDl 1) (bytes4 0x3C 0x08 0xDE 0xAD) (.dlD1 0xDEAD#16) &&
    reads (.injDl 2) (bytes4 0x35 0x08 0xBE 0xEF) (.dlD2 0xBEEF#16) &&
    reads (.injDl 3) (bytes4 0xAE 0x08 0x7F 0xFC) (.dlD3 0x7FFC#16) &&
    reads (.injDl 4) (bytes4 0xAC 0x88 0x00 0x30) .dlD4 &&
    reads (.injRd 0) (bytes4 0x3C 0x13 0xFF 0x20) .rdA0 &&
    reads (.injRd 1) (bytes4 0x3C 0x08 0xBF 0x80) (.rdA1 0xBF80#16) &&
    reads (.injRd 2) (bytes4 0x35 0x08 0xF2 0x20) (.rdA2 0xF220#16) &&
    reads (.injRd 3) (bytes4 0x8D 0x09 0x00 0x00) .rdA3 &&
    reads (.injRd 4) (bytes4 0xAE 0x69 0x00 0x00) .rdA4) = true := by decide +kernel

/-- FO (R109), the words of B3.9. -/
theorem test_decode_fo :
    (reads (.injFo 0) (bytes4 0x3C 0x04 0xBF 0x80) .foF0 &&
    reads (.injFo 1) (bytes4 0x34 0x84 0xF4 0x00) .foF1 &&
    reads (.injFo 2) (bytes4 0x3C 0x08 0x1F 0xC0) (.foF2 0x1FC0#16) &&
    reads (.injFo 3) (bytes4 0x35 0x08 0x0B 0x80) (.foF3 0x0B80#16) &&
    reads (.injFo 4) (bytes4 0xAC 0x88 0x00 0x20) .foF4 &&
    reads (.injFo 5) (bytes4 0x34 0x08 0x01 0x00) (.foF5 0x0100#16) &&
    reads (.injFo 6) (bytes4 0xAC 0x88 0x00 0x40) .foF6 &&
    reads (.injFo 7) (bytes4 0x34 0x08 0x40 0x03) (.foF7 3#4) &&
    reads (.injFo 8) (bytes4 0xAC 0x88 0x00 0x00) .foF8 &&
    reads (.injFo 9) (bytes4 0x3C 0x08 0xAA 0x99) .foF9 &&
    reads (.injFo 10) (bytes4 0x35 0x08 0x66 0x55) .foF10 &&
    reads (.injFo 11) (bytes4 0x3C 0x09 0x55 0x66) .foF11 &&
    reads (.injFo 12) (bytes4 0x35 0x29 0x99 0xAA) .foF12 &&
    reads (.injFo 13) (bytes4 0x34 0x0A 0x80 0x00) .foF13 &&
    reads (.injFo 14) (bytes4 0xAC 0x88 0x00 0x10) .foF14 &&
    reads (.injFo 15) (bytes4 0xAC 0x89 0x00 0x10) .foF15 &&
    reads (.injFo 16) (bytes4 0xAC 0x8A 0x00 0x08) .foF16 &&
    reads (.injFo 17) (bytes4 0x8C 0x88 0x00 0x00) .foF17 &&
    reads (.injFo 18) (bytes4 0x31 0x08 0x80 0x00) .foF18 &&
    reads (.injFo 19) (bytes4 0x15 0x00 0xFF 0xFD) .foF19 &&
    reads (.injFo 20) (bytes4 0x00 0x00 0x00 0x00) .foF20 &&
    reads (.injFo 21) (bytes4 0x00 0x00 0x00 0x00) .foF21 &&
    reads (.injFo 22) (bytes4 0x00 0x00 0x00 0x00) .foF22 &&
    reads (.injFo 23) (bytes4 0x00 0x00 0x00 0x00) .foF23 &&
    reads (.injFo 24) (bytes4 0x00 0x00 0x00 0x00) .foF24 &&
    reads (.injFo 25) (bytes4 0x34 0x08 0x40 0x00) .foF25 &&
    reads (.injFo 26) (bytes4 0xAC 0x88 0x00 0x04) .foF26 &&
    reads (.injFo 27) (bytes4 0x8C 0x88 0x00 0x00) .foF27 &&
    reads (.injFo 28) (bytes4 0x3C 0x13 0xFF 0x20) .foF28 &&
    reads (.injFo 29) (bytes4 0xAE 0x68 0x00 0x00) .foF29) = true := by decide +kernel

/-- The response codes (R101). -/
theorem test_decode_hostrsp :
    (reads .hostrsp [0x0#8] .rspOk && reads .hostrsp [0x1#8] .rspBusTimeout &&
    reads .hostrsp [0x2#8] .rspProtocolFraming && reads .hostrsp [0x3#8] .rspNvmControllerError &&
    reads .hostrsp [0x4#8] .rspDeviceUnidentified && reads .hostrsp [0x5#8] .rspVerifyMismatch &&
    reads .hostrsp [0x8#8] .rspIllegalState && reads .hostrsp [0x9#8] .rspBadArgument &&
    reads .hostrsp [0xA#8] .rspSessionFatal && reads .hostrsp [0xB#8] .rspUnknownOpcode) = true := by
  decide +kernel

/-- Bare words of the opcode table, by their width (notes/assumptions/3.md). -/
theorem test_decodeTableWord :
    decodeTableWord 8 0x07 = some .programWord ∧ decodeTableWord 4 0x8 = some .rspIllegalState ∧
    decodeTableWord 5 0x0E = some .etapFastdata ∧ decodeTableWord 32 0x0004C000 = some .ctrlResume ∧
    decodeTableWord 32 0xAE690000 = some .rdA4 ∧ decodeTableWord 32 0x34084004 = some (.foF7 4#4) ∧
    decodeTableWord 32 0x8C430008 = some (.lw 3#5 8#16 2#5) ∧
    decodeTableWord 38 0x10 = some (.xferFastData 1#32) ∧ decodeTableWord 24 0 = none := by decide +kernel

/-! ### Single steps -/

/-- The low `n` bits of a word as the answers of `n` data pulses, bit 0 first. -/
def bitsOf (n : Nat) (w : Word) : List Bool := (List.range n).map w.getLsbD

/-- The answers of `n` injections each ready on its first Control poll (144 pulses, all answering 1). -/
def ready (n : Nat) : List Bool := List.replicate (144 * n) true

/-- The answers of a FastDataDrain (87 pulses) whose second scan answers `(w, pracc)`. -/
def drain (w : Word) (pracc : Bool) : List Bool :=
  List.replicate 52 true ++ pracc :: (bitsOf 32 w ++ [false, false])

/-- The identity of the fixed record (R11, B4.3). -/
def fixedIdent : Ident :=
  { valid := true, id := 0x04A01053#32, name := Param.name210F016B, rowWords := 32#16, bfmKB := 3#16,
    pfmKB := 16#16 }

/-- DebugMode with the fixed identity, the shadow in Run-Test/Idle on ETAP, these operands and answers. -/
def debugState (a0 a1 a2 : Word) (tdo : List Bool) : State :=
  { State.reset with
    bus :=
      { State.reset.bus with
        tap := .runTestIdle, tapSel := .etap, irSel := ir5 0x0A#32, tdoIn := tdo
        pins := { tms := false, tdi := false, tck := true, rst := false } }
    dev := .debugMode, ident := fixedIdent, arg0 := a0, arg1 := a1, arg2 := a2 }

/-- DebugMode before IDENTIFY: the same without an identity. -/
def bareDebugState (a0 : Word) (tdo : List Bool) : State :=
  { debugState a0 0#32 0#32 tdo with ident := State.reset.ident }

/-- The state after reset with these operands and answers. -/
def freshState (a0 a1 a2 : Word) (tdo : List Bool) : State :=
  { State.reset with
    bus := { State.reset.bus with tdoIn := tdo }, arg0 := a0, arg1 := a1, arg2 := a2 }

/-- MtapSelected as WAIT_READY leaves it (end of P1), with these answers. -/
def mtapState (tdo : List Bool) : State :=
  { State.reset with
    bus :=
      { State.reset.bus with
        tap := .runTestIdle, tapSel := .mtap, irSel := ir5 0x07#32, tdoIn := tdo
        pins := { tms := false, tdi := false, tck := true, rst := true } }
    dev := .mtapSelected }

/-- DebugMode with the latched VerifyMismatch of B4.9. -/
def fatalState : State :=
  { debugState 0x1D000000#32 0xDEADBEEF#32 0#32 [] with
    fatal := true
    err :=
      { code := 5#4, op := 0x09#8, addr := 0x1D000000#32, obs := 0xDEADBEEE#32, exp := 0xDEADBEEF#32 } }

/-- The instruction answers a next state of which this holds. -/
def gives (i : Instr) (s : State) (p : State → Bool) : Bool :=
  match exec i s with
  | .next t => p t
  | _ => false

/-- The host reads these from the response registers. -/
def responds (code r0 r1 : Word) (t : State) : Bool :=
  hostRead t 0x14#32 == code && hostRead t 0x18#32 == r0 && hostRead t 0x1C#32 == r1 && !t.busy

/-- How many events a state has traced after the nine of reset. -/
def events (t : State) : Nat := t.bus.log.length - 9

/-- The levels driven on a line after reset, in order. -/
def levels (line : Line) (t : State) : List Bool :=
  (t.trace.drop 9).filterMap fun e =>
    match e with
    | .drive l v => if l = line then some v else none
    | _ => none

/-- Levels written as digits, the first pulse first. -/
def digits (ds : List Nat) : List Bool := ds.map (· == 1)

/-- NOP in a fatal session (B4.5). -/
theorem test_nop : gives .nop fatalState (fun t => responds 0#32 0#32 0#32 t && t.fatal &&
    hostRead t 0x20#32 == 0x00000905#32 && events t == 0) = true := by decide +kernel

/-- B4.10. -/
theorem test_clearError : gives .clearError fatalState (fun t => responds 0#32 0#32 0#32 t && !t.fatal &&
    hostRead t 0x20#32 == 0#32 && hostRead t 0x24#32 == 0#32 && hostRead t 0x28#32 == 0#32 &&
    t.dev == .debugMode && t.ident.valid && events t == 0) = true := by decide +kernel

/-- P1: the first status scan answers 0x08. -/
theorem test_waitReady :
    gives .waitReady
      (freshState 0#32 0#32 0#32 (List.replicate 31 false ++ bitsOf 8 0x08#32 ++ [false, false]))
      (fun t => responds 0#32 0x08#32 1#32 t && events t == 206 &&
        hostRead t 0x10#32 == 0x00010614#32 && hostRead t 0x34#32 == 0x07#32 &&
        levels .tms t == digits
          [1,1,1,1,1,0, 1,1,0,0,0,0,0,0,1,1,0, 1,1,0,0,0,0,0,0,1,1,0, 1,0,0,0,0,0,0,0,0,0,1,1,0] &&
        levels .tdi t == digits
          [0,0,0,0,0,0, 0,0,0,0,0,0,1,0,0,0,0, 0,0,0,0,1,1,1,0,0,0,0, 0,0,0,0,0,0,0,0,0,0,0,0,0] &&
        levels .rst t == [false]) = true := by decide +kernel

/-- P5, first command: every status scan answers 0. -/
theorem test_waitReady_timeout :
    gives .waitReady (freshState 0#32 0#32 0#32 (List.replicate 1328 false))
      (fun t => responds 1#32 0#32 0x08#32 t && events t == 6740 && t.fatal &&
        hostRead t 0x20#32 == 0x00000101#32 && hostRead t 0x24#32 == 0#32 && hostRead t 0x2C#32 == 0x08#32 &&
        t.bus.pins.rst && t.dev == .unknown && t.bus.tap == .runTestIdle) = true := by decide +kernel

/-- P2. -/
theorem test_enterPgmMode :
    gives .enterPgmMode (mtapState (List.replicate 310 true))
      (fun t => responds 0#32 0#32 0#32 t && events t == 1552 && hostRead t 0x30#32 == 2#32 &&
        t.dev == .debugMode && !t.bus.pins.rst && t.bus.tapSel == .etap && hostRead t 0x34#32 == 0x0A#32 &&
        levels .rst t == [true] && t.res.pracc) = true := by decide +kernel

/-- B3.6. -/
theorem test_exitPgmMode :
    gives .exitPgmMode (debugState 0#32 0#32 0#32 (List.replicate 17 false))
      (fun t => responds 0#32 0#32 0#32 t && events t == 88 && t.dev == .reset && !t.ident.valid &&
        t.bus.tapSel == .mtap && t.bus.irSel == ir5 0x04#32 && !t.bus.pins.rst &&
        levels .rst t == [false, true] && t.bus.log.take 2 == [.drive .rst true, .sleep 10]) = true := by
  decide +kernel

/-- B3.4: the erase scan's sample is dropped, then 0x0C and 0x08. -/
theorem test_eraseAll :
    gives .eraseAll
      (debugState 0#32 0#32 0#32 (List.replicate 38 true ++ bitsOf 8 0x0C#32 ++ List.replicate 5 false ++
        bitsOf 8 0x08#32 ++ List.replicate 13 false))
      (fun t => responds 0#32 0x08#32 2#32 t && events t == 361 && t.dev == .debugMode && t.ident.valid &&
        t.bus.tapSel == .etap && t.bus.irSel == ir5 0x05#32) = true := by decide +kernel

/-- B3.7, with a set bit of ARG0 that the command ignores. -/
theorem test_assertTargetReset :
    gives .assertTargetReset (debugState 0x80000001#32 0#32 0#32 [])
      (fun t => responds 0#32 0#32 0#32 t && events t == 1 && levels .rst t == [false] && t.bus.pins.rst &&
        t.dev == .unknown && !t.ident.valid) = true ∧
    gives .assertTargetReset (debugState 2#32 0#32 0#32 [])
      (fun t => responds 0#32 0#32 0#32 t && events t == 1 && levels .rst t == [true] && !t.bus.pins.rst &&
        t.dev == .unknown) = true := by decide +kernel

/-- P3 and B4.11: the top nibble of the identifier word is masked, and the host reads the identity. -/
theorem test_identify :
    gives .identify (bareDebugState 0#32 (ready 5 ++ drain 0x14A01053#32 true))
      (fun t => responds 0#32 0x04A01053#32 0#32 t && events t == 4035 &&
        hostRead t 0x40#32 == 0x04A01053#32 && hostRead t 0x44#32 == 0x20#32 &&
        hostRead t 0x48#32 == 0x400#32 && hostRead t 0x4C#32 == 0xC00#32 &&
        hostRead t 0x50#32 == 0x4000#32 && hostRead t 0x54#32 == 0x1D000000#32 &&
        hostRead t 0x58#32 == 0x1D003FFF#32 && hostRead t 0x5C#32 == 0x1FC00000#32 &&
        hostRead t 0x60#32 == 0x1FC00BFF#32 && hostRead t 0x64#32 == 0x1FC00BF0#32 &&
        hostRead t 0x68#32 == 0x46303132#32 && hostRead t 0x6C#32 == 0x42363130#32 &&
        hostRead t 0x70#32 == 0#32 && hostRead t 0x34#32 == 0x0E#32 && hostRead t 0x38#32 == 0x105#32 &&
        hostRead t 0x30#32 == 5#32 && hostRead t 0x10#32 == 0x000104E8#32 &&
        t.res == { value := 0x14A01053#32, pracc := true }) = true := by decide +kernel

/-- B4.1, the last row: the masked word 0 never matches the sentinel. -/
theorem test_identify_unidentified :
    gives .identify (debugState 0#32 0#32 0#32 (ready 5 ++ drain 0xF0000000#32 true))
      (fun t => responds 4#32 0xF0000000#32 0#32 t && hostRead t 0x20#32 == 0x00000604#32 &&
        hostRead t 0x24#32 == 0xBF80F220#32 && !t.ident.valid && t.dev == .debugMode && t.fatal) = true := by
  decide +kernel

/-- B4.7, second row: one attempt, bit 14 ignored. -/
theorem test_programWord :
    gives .programWord (debugState 0x1D000000#32 0xDEADBEEF#32 0#32 (ready 35 ++ drain 0x4000#32 true))
      (fun t => responds 0#32 0x4000#32 1#32 t && t.bus.samples == 5127 && hostRead t 0x30#32 == 35#32 &&
        !t.fatal && t.dev == .debugMode) = true := by decide +kernel

/-- B4.7, last row: a failed attempt, then an unconfirmed one. -/
theorem test_programWord_retry :
    gives .programWord (debugState 0x1D000000#32 0xDEADBEEF#32 0#32
        (ready 35 ++ drain 0x2000#32 true ++ ready 35 ++ drain 0xA000#32 true))
      (fun t => responds 1#32 0xA000#32 0#32 t && t.bus.samples == 10254 && t.fatal &&
        hostRead t 0x20#32 == 0x00000701#32 && hostRead t 0x24#32 == 0x1D000000#32 && t.dev == .unknown)
      = true := by decide +kernel

/-- P4, second command. -/
theorem test_readWord :
    gives .readWord (debugState 0x1D000000#32 0#32 0#32 (ready 5 ++ drain 0xDEADBEEF#32 true))
      (fun t => responds 0#32 0xDEADBEEF#32 0#32 t && events t == 4035 && t.ident.valid &&
        t.res == { value := 0xDEADBEEF#32, pracc := true }) = true := by decide +kernel

/-- B3.11, second case: the handshake bit of the second fast-data scan is 0. -/
theorem test_readWord_framing :
    gives .readWord (debugState 0#32 0#32 0#32 (ready 5 ++ drain 0x33333333#32 false))
      (fun t => responds 2#32 0x33333333#32 1#32 t && hostRead t 0x24#32 == 0#32 && t.dev == .unknown &&
        !t.ident.valid) = true := by decide +kernel

/-- B4.9, first case. -/
theorem test_verifyWord :
    gives .verifyWord (debugState 0x1D000000#32 0xDEADBEEF#32 0#32 (ready 5 ++ drain 0xDEADBEEF#32 true))
      (fun t => responds 0#32 0xDEADBEEF#32 0xDEADBEEF#32 t && t.bus.samples == 807 && !t.fatal) = true := by
  decide +kernel

/-- B4.9, second case. -/
theorem test_verifyWord_mismatch :
    gives .verifyWord (debugState 0x1D000000#32 0xDEADBEEF#32 0#32 (ready 5 ++ drain 0xDEADBEEE#32 true))
      (fun t => responds 5#32 0xDEADBEEE#32 0xDEADBEEF#32 t && hostRead t 0x20#32 == 0x00000905#32 &&
        hostRead t 0x24#32 == 0x1D000000#32 && t.fatal && t.dev == .debugMode && t.ident.valid) = true := by
  decide +kernel

/-- B3.8: five injections, 720 pulses; the first Data scan carries 0x3C10A000 on pulses 62 to 93. -/
theorem test_downloadData :
    gives .downloadData (debugState 0x7FFC#32 1#32 0#32 (ready 5))
      (fun t => responds 0#32 0#32 0#32 t && events t == 3600 && hostRead t 0x30#32 == 5#32 &&
        ((levels .tdi t).drop 62).take 32 == bitsOf 32 0x3C10A000#32) = true := by decide +kernel

/-- B4.8, second case: error bits are the host's to judge. -/
theorem test_flashOperation :
    gives .flashOperation (debugState 4#32 0x1D000400#32 0#32 (ready 30 ++ drain 0x2000#32 true))
      (fun t => responds 0#32 0x2000#32 0#32 t && t.bus.samples == 4407 && !t.fatal) = true := by
  decide +kernel

/-- B4.8, third case: bit 15 set. -/
theorem test_flashOperation_unconfirmed :
    gives .flashOperation (debugState 4#32 0x1D000400#32 0#32 (ready 30 ++ drain 0x8000#32 true))
      (fun t => responds 1#32 0x8000#32 0#32 t && hostRead t 0x24#32 == 0x1D000400#32 && t.dev == .unknown &&
        !t.ident.valid) = true := by decide +kernel

/-- B4.12 and B1.2: RAW_SET_MODE(6, 0x1F) with the samples 1,0,1,0,1,0; the row of the table does the
same. -/
theorem test_rawSetMode :
    (gives .rawSetMode (freshState 6#32 0x1F#32 0#32 (digits [1,0,1,0,1,0]))
      (fun t => responds 0#32 0x15#32 0#32 t && events t == 30 && t.bus.tap == .runTestIdle &&
        levels .tms t == digits [1,1,1,1,1,0] && t.bus.tapSel == .unknownSel) &&
    gives .setMode6TapReset (freshState 0#32 0#32 0#32 (digits [1,0,1,0,1,0]))
      (fun t => responds 0#32 0x15#32 0#32 t && events t == 30 && t.bus.tap == .runTestIdle)) = true := by
  decide +kernel

/-- B1.3 and B1.4: RAW_SEND_COMMAND(5, 0xFFFFFFE4) shifts 0x04; the row of the table the same. -/
theorem test_rawSendCommand :
    (gives .rawSendCommand (debugState 5#32 0xFFFFFFE4#32 0#32 (List.replicate 11 true))
      (fun t => responds 0#32 0#32 0#32 t && levels .tms t == digits [1,1,0,0,0,0,0,0,1,1,0] &&
        levels .tdi t == digits [0,0,0,0,0,0,1,0,0,0,0] && t.bus.irSel == ir5 0x04#32 &&
        t.bus.tapSel == .mtap && t.dev == .unknown && !t.ident.valid && t.bus.tap == .runTestIdle) &&
    gives (.sendCommand5 0x0E#5) (debugState 0#32 0#32 0#32 (List.replicate 11 true))
      (fun t => levels .tdi t == digits [0,0,0,0,0,1,1,1,0,0,0] && t.bus.irSel == ir5 0x0E#32 &&
        t.bus.tapSel == .etap)) = true := by decide +kernel

/-- B1.6, B4.12 and B1.8: RAW_XFER_DATA of 8 bits and of width 0. -/
theorem test_rawXferData :
    (gives .rawXferData
      (debugState 8#32 0#32 0#32 (digits [1,1,1] ++ bitsOf 8 0x08#32 ++ digits [1,0]))
      (fun t => responds 0#32 0x08#32 0#32 t && events t == 65 &&
        levels .tms t == digits [1,0,0,0,0,0,0,0,0,0,1,1,0] && t.dev == .unknown) &&
    gives .rawXferData (freshState 0#32 0xFFFFFFFF#32 0#32 [])
      (fun t => responds 0#32 0#32 0#32 t && events t == 0 && t.bus == State.reset.bus)) = true := by
  decide +kernel

/-- B4.12 and B1.9: RAW_XFER_FAST_DATA reports a handshake bit of 0; TDI of 0x80000001 is 1 on pulses 4
and 35. -/
theorem test_rawXferFastData :
    (gives .rawXferFastData
      (freshState 0xCAFEF00D#32 0#32 0#32 (digits [1,1,1,0] ++ bitsOf 32 5#32 ++ digits [1,1]))
      (fun t => responds 0#32 5#32 0#32 t && events t == 190 && !t.fatal) &&
    gives (.xferFastData 0x80000001#32) (debugState 0#32 0#32 0#32 (List.replicate 38 true))
      (fun t => responds 0#32 0xFFFFFFFF#32 1#32 t &&
        levels .tdi t == digits [0,0,0,0,1] ++ List.replicate 30 false ++ digits [1,0,0])) = true := by
  decide +kernel

/-- B2.2: ready on the third poll. -/
theorem test_rawXferInstruction :
    gives .rawXferInstruction (debugState 0x3C04BF80#32 0#32 0#32
        (List.replicate 14 false ++ bitsOf 32 0xC000#32 ++ List.replicate 5 false ++ bitsOf 32 0xC000#32 ++
          List.replicate 5 false ++ bitsOf 32 0x4C000#32 ++ List.replicate 98 false))
      (fun t => responds 0#32 0x4C000#32 1#32 t && events t == 1090 && t.poll.pollN == 3 &&
        hostRead t 0x30#32 == 1#32 && ((levels .tdi t).drop 136).take 32 == bitsOf 32 0x3C04BF80#32 &&
        t.bus.irSel == ir5 0x0A#32 && t.dev == .unknown) = true := by decide +kernel

/-- B2.3: never ready. Bit 18 of no Control word is set; the last word is 0xFFFBFFFF (B2.4). -/
theorem test_rawXferInstruction_never :
    gives .rawXferInstruction (debugState 0#32 0#32 0#32
        (List.replicate 3677 false ++ bitsOf 32 0xFFFBFFFF#32 ++ [false, false]))
      (fun t => responds 0#32 0xFFFBFFFF#32 0#32 t && t.bus.samples == 3711 && hostRead t 0x30#32 == 0#32 &&
        !t.fatal && t.res == { value := 0xFFFBFFFF#32, pracc := false }) = true := by decide +kernel

/-- B4.5 and R111: a reserved opcode answers 11, in a fatal session too. -/
theorem test_reserved :
    (gives (.reserved0C 0#1) (freshState 0#32 0#32 0#32 []) (fun t => responds 11#32 0#32 0#32 t) &&
    gives .reserved0F fatalState (fun t => responds 11#32 0#32 0#32 t && t.fatal && events t == 0) &&
    gives .reserved15 fatalState (responds 11#32 0#32 0#32) &&
    gives (.reserved16 1#1) fatalState (responds 11#32 0#32 0#32) &&
    gives (.reserved18 2#3) fatalState (responds 11#32 0#32 0#32) &&
    gives (.reserved20 0#5) fatalState (responds 11#32 0#32 0#32) &&
    gives (.reserved40 0#6) fatalState (responds 11#32 0#32 0#32) &&
    gives (.reserved80 127#7) (freshState 0#32 0#32 0#32 []) (fun t => responds 11#32 0#32 0#32 t)) = true := by
  decide +kernel

/-- The opcodes of R102 on the data pulses of their scan (B1.3), lowest bit first. -/
theorem test_tapOpcode_rows :
    ([(Instr.mtapSwMtap, [0,0,1,0,0]), (.mtapSwEtap, [1,0,1,0,0]), (.mtapCommand, [1,1,1,0,0]),
      (.etapData, [1,0,0,1,0]), (.etapControl, [0,1,0,1,0]), (.etapEjtagboot, [0,0,1,1,0]),
      (.etapFastdata, [0,1,1,1,0])].all fun r =>
      gives r.1 (debugState 0#32 0#32 0#32 (List.replicate 11 false)) (fun t =>
        ((levels .tdi t).drop 4).take 5 == digits r.2 && events t == 55 && t.rsp == 0#32)) = true := by
  decide +kernel

/-- The words of R103 and R104 on the data pulses of their scan (B1.5, B1.7). -/
theorem test_dataScan_rows :
    (gives .mchpErase (debugState 0#32 0#32 0#32 (List.replicate 13 false))
      (fun t => levels .tdi t == digits [0,0,0,0,0,1,1,1,1,1,1,0,0]) &&
    gives .mchpStatus (debugState 0#32 0#32 0#32 (digits [0,0,0] ++ bitsOf 8 0xFB#32 ++ digits [0,0]))
      (responds 0#32 0xFB#32 0#32) &&
    gives (.xferData8 0x81#8) (debugState 0#32 0#32 0#32 (List.replicate 13 true))
      (fun t => responds 0#32 0xFF#32 0#32 t && levels .tdi t == digits [0,0,0,1,0,0,0,0,0,0,1,0,0]) &&
    gives (.xferData32 1#32) (debugState 0#32 0#32 0#32 (List.replicate 37 true))
      (fun t => responds 0#32 0xFFFFFFFF#32 0#32 t && (levels .tdi t).take 5 == digits [0,0,0,1,0]) &&
    gives .ctrlResume (debugState 0#32 0#32 0#32 (List.replicate 37 true))
      (fun t => (levels .tdi t).drop 3 == bitsOf 32 0x0004C000#32 ++ [false, false] && events t == 185) &&
    gives .ctrlProceed (debugState 0#32 0#32 0#32 (List.replicate 37 true))
      (fun t => (levels .tdi t).drop 3 == bitsOf 32 0x0000C000#32 ++ [false, false])) = true := by
  decide +kernel

/-- An injected word run by itself carries its bits on the Data scan, pulses 62 to 93 of 144. -/
theorem test_injectedWord_rows :
    ([(Instr.lui 4#5 0xBF80#16, 0x3C04BF80), (.bne 8#5 0#5 0xFFFD#16, 0x1500FFFD),
      (.sw 9#5 0#16 19#5, 0xAE690000), (.dlD3 0x10#16, 0xAE080010), (.foF7 5#4, 0x34084005),
      (.rdA1 0xBF80#16, 0x3C08BF80)].all fun r =>
      gives r.1 (debugState 0#32 0#32 0#32 (List.replicate 144 true)) (fun t =>
        ((levels .tdi t).drop 62).take 32 == bitsOf 32 (BitVec.ofNat 32 r.2) && events t == 720 &&
        responds 0#32 0xFFFFFFFF#32 1#32 t && t.injCount == 1#32)) = true := by decide +kernel

/-- Response rows: the latched values for an error, zeros for a refusal (R98, R101). -/
theorem test_response_rows :
    (gives .rspVerifyMismatch fatalState (responds 5#32 0xDEADBEEE#32 0xDEADBEEF#32) &&
    gives .rspBusTimeout fatalState (responds 1#32 0xDEADBEEE#32 0xDEADBEEF#32) &&
    gives .rspProtocolFraming fatalState (responds 2#32 0xDEADBEEE#32 0xDEADBEEF#32) &&
    gives .rspNvmControllerError fatalState (responds 3#32 0xDEADBEEE#32 0xDEADBEEF#32) &&
    gives .rspDeviceUnidentified fatalState (responds 4#32 0xDEADBEEE#32 0xDEADBEEF#32) &&
    gives .rspIllegalState fatalState (responds 8#32 0#32 0#32) &&
    gives .rspBadArgument fatalState (responds 9#32 0#32 0#32) &&
    gives .rspSessionFatal fatalState (responds 10#32 0#32 0#32) &&
    gives .rspUnknownOpcode fatalState (responds 11#32 0#32 0#32) &&
    gives .rspOk { fatalState with res0 := 7#32, res1 := 8#32 } (responds 0#32 7#32 8#32)) = true := by
  decide +kernel

/-- B1.8 and B1.10: width 0; and a data scan started in Shift-DR walks through Pause-DR. -/
theorem test_misframed_scan :
    tapsAlong (drFrame 8 0#32)
        { State.reset.bus with tap := .shiftDR, tdoIn := List.replicate 13 false } =
      [.exit1DR, .pauseDR, .pauseDR, .pauseDR, .pauseDR, .pauseDR, .pauseDR, .pauseDR, .pauseDR, .pauseDR,
       .exit2DR, .updateDR, .runTestIdle] := by decide +kernel

/-! ### Checks and tables -/

/-- B3.8, B3.9 and B3.10: the words the templates make. -/
theorem test_template_words :
    (templateDl 0#32 0xDEADBEEF#32).map wordOf =
      [0x3C10A000#32, 0x3C08DEAD#32, 0x3508BEEF#32, 0xAE080000#32, 0xAC880030#32] ∧
    (templateDl 0x7FFC#32 1#32).map wordOf =
      [0x3C10A000#32, 0x3C080000#32, 0x35080001#32, 0xAE087FFC#32, 0xAC880030#32] ∧
    (templateRd 0x1FC00BF0#32).map wordOf =
      [0x3C13FF20#32, 0x3C08BFC0#32, 0x35080BF0#32, 0x8D090000#32, 0xAE690000#32] ∧
    (templateFo 1#32 0x1D000000#32 0#32).map wordOf =
      [0x3C04BF80#32, 0x3484F400#32, 0x3C081D00#32, 0x35080000#32, 0xAC880020#32, 0x34080000#32,
       0xAC880040#32, 0x34084001#32, 0xAC880000#32, 0x3C08AA99#32, 0x35086655#32, 0x3C095566#32,
       0x352999AA#32, 0x340A8000#32, 0xAC880010#32, 0xAC890010#32, 0xAC8A0008#32, 0x8C880000#32,
       0x31088000#32, 0x1500FFFD#32, 0#32, 0#32, 0#32, 0#32, 0#32, 0x34084000#32, 0xAC880004#32,
       0x8C880000#32, 0x3C13FF20#32, 0xAE680000#32] ∧
    ((templateFo 3#32 0x1FC00B80#32 0x100#32).map wordOf)[2]? = some 0x3C081FC0#32 ∧
    ((templateFo 3#32 0x1FC00B80#32 0x100#32).map wordOf)[5]? = some 0x34080100#32 := by decide +kernel

/-- B3.1: which status bytes StatusPoll accepts. -/
theorem test_statusReady :
    ([0x08, 0x09, 0x0A, 0x0B, 0x18, 0xFB].all fun n => statusReady (BitVec.ofNat 32 n)) = true ∧
    ([0x00, 0x04, 0x0C, 0x0F, 0xF7, 0xFF].any fun n => statusReady (BitVec.ofNat 32 n)) = false := by
  decide +kernel

/-- B2.4: the ready test reads bit 18 only. -/
theorem test_controlReady :
    controlReady 0x00040000#32 = true ∧ controlReady 0xFFFFFFFF#32 = true ∧
    controlReady 0xFFFBFFFF#32 = false := by decide +kernel

/-- B3.12: EvalNvmStatus. -/
theorem test_evalNvmStatus :
    ([0x00000000, 0x00004000, 0x00000FFF, 0xFFFF0000].all fun n =>
      evalNvmStatus (BitVec.ofNat 32 n) == .done) = true ∧
    ([0x1000, 0x2000, 0x3000].all fun n => evalNvmStatus (BitVec.ofNat 32 n) == .failed) = true ∧
    ([0x8000, 0xB000].all fun n => evalNvmStatus (BitVec.ofNat 32 n) == .unconfirmed) = true := by
  decide +kernel

/-- B4.3: the derived values of the fixed record and of the record with 16, 2 and 8. -/
theorem test_derived_identity :
    fixedIdent.rowBytes = 0x80#32 ∧ fixedIdent.pageBytes = 0x400#32 ∧ fixedIdent.pfmLast = 0x1D003FFF#32 ∧
    fixedIdent.cfgFirst = 0x1FC00BF0#32 ∧ fixedIdent.cfgLast = 0x1FC00BFF#32 ∧
    { fixedIdent with rowWords := 16#16, bfmKB := 2#16, pfmKB := 8#16 }.pageBytes = 0x200#32 ∧
    { fixedIdent with rowWords := 16#16, bfmKB := 2#16, pfmKB := 8#16 }.cfgFirst = 0x1FC007F0#32 := by
  decide +kernel

/-- B4.4: InRange with the fixed record. -/
theorem test_inRange :
    ([(0x1D000000, 4), (0x1D003FFC, 4), (0x1FC00000, 4), (0x1FC00BF0, 4), (0x1FC00BFC, 4), (0x1D003F80, 0x80),
      (0x1D003C00, 0x400), (0x1FC00800, 0x400)].all fun r =>
      fixedIdent.inRange (BitVec.ofNat 32 r.1) (BitVec.ofNat 32 r.2)) = true ∧
    ([(0x1D004000, 4), (0x1CFFFFFC, 4), (0x1D003FFE, 4), (0x1FC00C00, 4), (0xFFFFFFFC, 4), (0, 4)].any fun r =>
      fixedIdent.inRange (BitVec.ofNat 32 r.1) (BitVec.ofNat 32 r.2)) = false := by decide +kernel

/-- B4.6: the operand checks of FLASH_OPERATION. -/
theorem test_flashOperation_operands :
    ([(2, 0x1D000000, 0), (0x101, 0x1D000000, 0), (1, 0x1D000000, 0x8000), (3, 0x1D000040, 0),
      (4, 0x1D000200, 0), (4, 0x1FC00C00, 0), (5, 0x12345679, 0)].all fun r =>
      gives .flashOperation
        (debugState (BitVec.ofNat 32 r.1) (BitVec.ofNat 32 r.2.1) (BitVec.ofNat 32 r.2.2) [])
        (fun t => responds 9#32 0#32 0#32 t && events t == 0 && t.dev == .debugMode)) = true ∧
    fixedIdent.flashAddrOk 3#32 0x1D000080#32 = true ∧ fixedIdent.flashAddrOk 5#32 0x12345678#32 = true := by
  decide +kernel

/-- B4.6: the operand checks of the other commands, and B4.5's widths. -/
theorem test_operand_refusals :
    (gives .programWord (debugState 0x1D000002#32 0#32 0#32 []) (responds 9#32 0#32 0#32) &&
    gives .programWord (debugState 0x1D004000#32 0#32 0#32 []) (responds 9#32 0#32 0#32) &&
    gives .readWord (debugState 0x1D000001#32 0#32 0#32 []) (responds 9#32 0#32 0#32) &&
    gives .verifyWord (debugState 0x1D000003#32 0#32 0#32 []) (responds 9#32 0#32 0#32) &&
    gives .downloadData (debugState 0x8000#32 0#32 0#32 []) (responds 9#32 0#32 0#32) &&
    gives .downloadData (debugState 0x7FFE#32 0#32 0#32 []) (responds 9#32 0#32 0#32) &&
    gives .rawXferData (freshState 33#32 0#32 0#32 []) (fun t => responds 9#32 0#32 0#32 t) &&
    gives .rawXferData (freshState 0xFFFFFFFF#32 0#32 0#32 []) (responds 9#32 0#32 0#32)) = true := by
  decide +kernel

/-- B4.5: the order of the refusals. -/
theorem test_refusal_order :
    (gives .programWord (freshState 1#32 0#32 0#32 []) (responds 8#32 0#32 0#32) &&
    gives .enterPgmMode (freshState 0#32 0#32 0#32 []) (responds 8#32 0#32 0#32) &&
    gives .readWord (freshState 0x1D000000#32 0#32 0#32 []) (responds 8#32 0#32 0#32) &&
    gives .eraseAll (bareDebugState 0#32 []) (responds 8#32 0#32 0#32) &&
    gives .programWord (bareDebugState 0x1D000000#32 []) (responds 8#32 0#32 0#32) &&
    gives .flashOperation (bareDebugState 5#32 []) (responds 8#32 0#32 0#32) &&
    gives .readWord fatalState (fun t => responds 10#32 0#32 0#32 t && t.err == fatalState.err) &&
    gives .rawXferData { fatalState with arg0 := 33#32 } (responds 10#32 0#32 0#32)) = true := by
  decide +kernel

/-- The catalog of B4.2 (its names aside): the first and third record share an identifier. -/
def otherRecords : List DeviceRecord :=
  [⟨0xAAAA#32, Param.name210F016B, 8#16, 1#16, 4#16⟩, ⟨0xBBBB#32, Param.name210F016B, 16#16, 2#16, 8#16⟩,
   ⟨0xAAAA#32, Param.name210F016B, 32#16, 3#16, 16#16⟩]

def otherCatalog : List DeviceRecord :=
  otherRecords ++ [⟨0#32, Param.name210F016B, 0#16, 0#16, 0#16⟩]

/-- DebugMode before IDENTIFY in a machine with that catalog, whose identifier word reads `w`. -/
def otherState (w : Word) : State :=
  { bareDebugState 0#32 (ready 5 ++ drain w true) with catalog := otherCatalog }

/-- B4.2: the first match wins, and a record after the match is never used. -/
theorem test_catalog_first_match :
    (scanCatalog 0xAAAA#32 0 otherCatalog).map Prod.fst = some 0 ∧
    (scanCatalog 0xBBBB#32 0 otherCatalog).map Prod.fst = some 1 ∧
    scanCatalog 0xCCCC#32 0 otherCatalog = none ∧ scanCatalog 0#32 0 otherCatalog = none := by decide +kernel

/-- R11: IDENTIFY scans the catalog of its machine. -/
theorem test_identify_other_catalog :
    (gives .identify (otherState 0x1000BBBB#32)
      (fun t => responds 0#32 0xBBBB#32 1#32 t && hostRead t 0x44#32 == 16#32 &&
        hostRead t 0x50#32 == 0x2000#32) &&
    gives .identify (otherState 0xAAAA#32)
      (fun t => responds 0#32 0xAAAA#32 0#32 t && hostRead t 0x44#32 == 8#32) &&
    gives .identify (otherState 0x04A01053#32) (responds 4#32 0x04A01053#32 0#32)) = true := by decide +kernel

/-- B4.11 and B6: what the host reads after reset, and the trace. -/
theorem test_reset :
    hostRead State.reset 0x10#32 = 0x00100C00#32 ∧ hostRead State.reset 0x14#32 = 0#32 ∧
    hostRead State.reset 0x38#32 = 0#32 ∧ hostRead State.reset 0x40#32 = 0#32 ∧
    State.reset.trace.length = 9 ∧ State.reset.trace.getLast? = some (.drive .rst true) := by decide +kernel

/-- A step answers a next state of which this holds. -/
def steps (s : State) (p : State → Bool) : Bool :=
  match step s with
  | .next t => p t
  | _ => false

/-- Host writes: an operand, a command with bits above its opcode (B4.5), one while a command runs, an
unlisted offset, a row of the table put in place, and the reset input (R280). -/
theorem test_step :
    (steps { State.reset with requests := [.write 0x08#32 0xABCD#32] }
      (fun t => t.arg1 == 0xABCD#32 && t.requests.isEmpty) &&
    steps { debugState 0x1D000002#32 0#32 0#32 [] with requests := [.write 0#32 0x1FF07#32] }
      (fun t => responds 9#32 0#32 0#32 t) &&
    steps { State.reset with busy := true, requests := [.write 0#32 0x05#32] }
      (fun t => t == { State.reset with busy := true }) &&
    steps { State.reset with requests := [.write 0x10#32 5#32] } (fun t => t == State.reset) &&
    steps (State.reset.withFetchWord 8 0x05) (fun t => events t == 1 && t.requests.isEmpty) &&
    steps (State.reset.withFetchWord 4 0x8) (responds 8#32 0#32 0#32) &&
    steps { fatalState with requests := [.reset] }
      (fun t => t.bus.log.length == 18 && { t with bus := { t.bus with log := resetLog } } == State.reset) &&
    steps State.reset (fun t => t == State.reset)) = true := by decide +kernel

/-! ### Witnesses: a state and operands that meet the hypotheses of each obligation -/

/-- What `gives` shows, as an equation. -/
theorem gives_next {i : Instr} {s : State} {p : State → Bool} (h : gives i s p = true) :
    ∃ t, exec i s = .next t ∧ p t = true := by
  unfold gives at h
  split at h
  · exact ⟨_, ‹_›, h⟩
  · exact absurd h (by decide)

/-- What `steps` shows, as an equation. -/
theorem steps_next {s : State} {p : State → Bool} (h : steps s p = true) :
    ∃ t, step s = .next t ∧ p t = true := by
  unfold steps at h
  split at h
  · exact ⟨_, ‹_›, h⟩
  · exact absurd h (by decide)

/-- The answers of one attempt of PROGRAM_WORD whose status word is `st`. -/
def attempt (st : Word) : List Bool := ready 35 ++ drain st true

theorem ready_length (n : Nat) : (ready n).length = 144 * n := List.length_replicate

theorem attempt_length (st : Word) : (attempt st).length = 5127 := by
  rw [attempt, List.length_append, ready_length, drain, List.length_append, List.length_replicate,
    List.length_cons, List.length_append, bitsOf, List.length_map, List.length_range]
  rfl

/-- A PROGRAM_WORD of the first word of program flash with these answers. -/
def programState (tdo : List Bool) : State := debugState 0x1D000000#32 0xDEADBEEF#32 0#32 tdo

/-- One attempt, its status word read from the answers after the injections. -/
theorem first_attempt {b : TapSession} {st : Word} {rest : List Bool}
    (h : b.tdoIn = attempt st ++ rest) (hp : drainPracc (later b (drain st true ++ rest) 5040) 0 = true)
    (hw : drainWord (later b (drain st true ++ rest) 5040) 0 = st) :
    programAttempt b 0 = some (st, 5127) := by
  have ht : b.tdoIn = List.replicate 5040 true ++ (drain st true ++ rest) := by
    rw [h, attempt, List.append_assoc]; rfl
  have hl : ∀ k, (later b (drain st true ++ rest) 5040).answer (0 + k) = b.answer (0 + 5040 + k) := by
    intro k; simpa using answer_later ht (n := 5040) List.length_replicate k
  exact attempt_ready (fun k hk => answer_run ht (by omega))
    ((drainPracc_shift (off := 0 + 5040) hl).symm.trans hp)
    ((drainWord_shift (off := 0 + 5040) hl).symm.trans hw)

/-- The second attempt is the first of the session once the first is over. -/
theorem second_attempt {b : TapSession} {st₁ st₂ : Word} {rest : List Bool}
    (h : b.tdoIn = attempt st₁ ++ (attempt st₂ ++ rest))
    (hp : drainPracc (later b (drain st₂ true ++ rest) 10167) 0 = true)
    (hw : drainWord (later b (drain st₂ true ++ rest) 10167) 0 = st₂) :
    programAttempt b 5127 = some (st₂, 10254) := by
  have hn : (attempt st₁).length = 5127 := attempt_length st₁
  have hs : attempt st₂ ++ rest = List.replicate 5040 true ++ (drain st₂ true ++ rest) := by
    rw [attempt, List.append_assoc]; rfl
  have ht : b.tdoIn = (attempt st₁ ++ List.replicate 5040 true) ++ (drain st₂ true ++ rest) := by
    rw [h, hs, List.append_assoc]
  have hl : ∀ k, (later b (drain st₂ true ++ rest) 10167).answer (0 + k) = b.answer (5127 + 5040 + k) := by
    intro k; simpa using answer_later ht (n := 10167) (by rw [List.length_append, hn, List.length_replicate]) k
  refine attempt_ready (fun k hk => ?_) ((drainPracc_shift (off := 5127 + 5040) hl).symm.trans hp)
    ((drainWord_shift (off := 5127 + 5040) hl).symm.trans hw)
  rw [← answer_later h hn k]
  exact answer_run (n := 5040) (rest := drain st₂ true ++ rest) hs (by omega)

/-- The answers of a first attempt that failed, with others after it. -/
theorem after_attempt {b : TapSession} {st : Word} {pre rest : List Bool} {n : Nat}
    (h : b.tdoIn = attempt st ++ (pre ++ rest)) (hn : pre.length = n) (k : Nat) : (later b rest (5127 + n)).answer k = b.answer (5127 + n + k) :=
  answer_later (pre := attempt st ++ pre) (by rw [h, List.append_assoc])
    (by rw [List.length_append, attempt_length, hn]) k

/-- Injections of a second attempt, all ready at once. -/
theorem second_ready {b : TapSession} {st : Word} {rest : List Bool} (n : Nat)
    (h : b.tdoIn = attempt st ++ (ready n ++ rest)) : injectionsEnd b n 5127 = some (5127 + 144 * n) :=
  all_ready n 5127 fun k hk => by
    rw [← answer_later h (attempt_length st) k]
    exact answer_run (n := 144 * n) (rest := rest) rfl hk

/-- The states of the fixtures are between scans. -/
theorem witness_atIdle :
    AtIdle (debugState 0#32 0#32 0#32 []).bus ∧ AtIdle (mtapState []).bus := by
  unfold AtIdle; decide +kernel

theorem witness_StepRunsHostCommand :
    ({ State.reset with requests := [.write 0#32 0x0001FF07#32] } : State).requests =
      .write 0#32 0x0001FF07#32 :: [] ∧
    State.reset.busy = false ∧
    decode .hostcmd [(0x0001FF07#32).setWidth 8] = .ok (.programWord, []) ∧
    decode .hostcmd [(0xFFFFFFFF#32).setWidth 8] = .ok (.reserved80 127#7, []) := by decide +kernel

theorem witness_StepRunsTableWord :
    ({ State.reset with requests := [.word .tapir [0x04#8, 0xAA#8]] } : State).requests =
      .word .tapir [0x04#8, 0xAA#8] :: [] ∧
    State.reset.busy = false ∧ decode .tapir [0x04#8, 0xAA#8] = .ok (.mtapSwMtap, [0xAA#8]) ∧
    decodeTableWord 8 0 = some .nop ∧ decodeTableWord 32 0 = some .mipsNop := by decide +kernel

theorem witness_StepServesHostWrites :
    State.reset.requests = [] ∧
    ([0x00, 0x01, 0x03, 0x04, 0x05, 0x08, 0x0C, 0x0D, 0x10, 0xFFFFFFFF].all fun n =>
      decide (({ State.reset with busy := true, requests := [.write (BitVec.ofNat 32 n) 1#32] } : State).requests =
        .write (BitVec.ofNat 32 n) 1#32 :: [])) = true ∧
    ({ State.reset with busy := true } : State).busy = true ∧
    ({ fatalState with busy := true, requests := [.word .hostcmd [0#8], .reset] } : State).requests =
      .word .hostcmd [0#8] :: [.reset] ∧
    ({ fatalState with requests := [.reset] } : State).requests = .reset :: [] := by decide +kernel

theorem witness_HostReadsRegisterFile :
    State.reset.bus.irSel = none ∧ (mtapState []).bus.irSel = some { bits := 5#6, opcode := 7#32 } ∧
    State.reset.ident.valid = false ∧ (debugState 0#32 0#32 0#32 []).ident.valid = true ∧
    (0x40#32 ≤ 0x40#32 ∧ (0x40#32 : Word) ≤ 0x70#32) ∧ (0x40#32 ≤ 0x70#32 ∧ (0x70#32 : Word) ≤ 0x70#32) ∧
    (0x70#32 : Word) < 0x71#32 ∧ (0x70#32 : Word) < 0xFFFFFFFF#32 ∧ 0x41#32 &&& 3#32 ≠ 0#32 ∧
    0x13#32 &&& 3#32 ≠ 0#32 := by decide +kernel

/-- A state with each code of S.dev, S.tap_sel and S.tap at its ends. -/
theorem witness_StatusRegisterPacksState :
    State.reset.dev = .unknown ∧ ({ State.reset with dev := .reset } : State).dev = .reset ∧
    State.reset.bus.tapSel = .unknownSel ∧ (debugState 0#32 0#32 0#32 []).bus.tapSel = .etap ∧
    ({ State.reset.bus with tap := .testLogicReset } : TapSession).tap = .testLogicReset ∧
    State.reset.bus.tap = .unknownTap := by decide +kernel

theorem witness_DecodeEncodeAgree :
    (Instr.dlD3 0x7FFC#16).wellFormed = true ∧ (Instr.foF5 0#16).wellFormed = true ∧
    (Instr.foF3 0xFFFC#16).wellFormed = true ∧ (Instr.foF7 5#4).wellFormed = true ∧
    (Instr.rdA1 0xA000#16).wellFormed = true ∧ (Instr.rdA2 0#16).wellFormed = true ∧
    (Instr.lui 31#5 0xFFFF#16).wellFormed = true ∧ (Instr.xferFastData 0xFFFFFFFF#32).wellFormed = true := by
  decide

theorem witness_DecodedBytesAreTheEncoding :
    decode (.injFo 7) [0x03#8, 0x40#8, 0x08#8, 0x34#8, 0x99#8] = .ok (.foF7 3#4, [0x99#8]) := by
  decide +kernel

theorem witness_AssertTargetResetCompletes :
    (freshState 0#32 0#32 0#32 []).fatal = false ∧ (debugState 1#32 0#32 0#32 []).fatal = false := by decide

theorem witness_ExitPgmModeCompletes : Accepted .exitPgmMode (debugState 0#32 0#32 0#32 []) := by
  unfold Accepted; decide +kernel

/-- The first poll, and the last of the hundred. -/
theorem witness_WaitReadyCompletes :
    Accepted .waitReady (freshState 0#32 0#32 0#32 (List.replicate 31 false ++ bitsOf 8 8#32)) ∧
    readyStatusPoll (freshState 0#32 0#32 0#32 (List.replicate 31 false ++ bitsOf 8 8#32)).bus 28 = some 0 ∧
    readyStatusPoll
      (freshState 0#32 0#32 0#32 (List.replicate 1318 false ++ bitsOf 8 8#32)).bus 28 = some 99 := by
  refine ⟨by unfold Accepted; decide +kernel, by decide +kernel,
    status_at_last (fun i hi => answer_run (n := 1318) rfl (by omega)) ?_⟩
  rw [← answer_later (n := 1318) rfl List.length_replicate 3, ← answer_later (n := 1318) rfl List.length_replicate 2]
  decide +kernel

theorem witness_EraseAllCompletes :
    Accepted .eraseAll (debugState 0#32 0#32 0#32 (List.replicate 38 true ++ bitsOf 8 8#32)) ∧
    readyStatusPoll (debugState 0#32 0#32 0#32 (List.replicate 38 true ++ bitsOf 8 8#32)).bus 35 = some 0 ∧
    readyStatusPoll
      (debugState 0#32 0#32 0#32 (List.replicate 1325 false ++ bitsOf 8 8#32)).bus 35 = some 99 := by
  refine ⟨by unfold Accepted; decide +kernel, by decide +kernel,
    status_at_last (fun i hi => answer_run (n := 1325) rfl (by omega)) ?_⟩
  rw [← answer_later (n := 1325) rfl List.length_replicate 3, ← answer_later (n := 1325) rfl List.length_replicate 2]
  decide +kernel

/-- All answers 0, and all answers 1 (bit 3 set with bit 2 set too). -/
theorem witness_StatusPollTimeoutRaises :
    Accepted .waitReady (freshState 0#32 0#32 0#32 (List.replicate 1328 false ++ [])) ∧
    readyStatusPoll (freshState 0#32 0#32 0#32 (List.replicate 1328 false ++ [])).bus 28 = none ∧
    readyStatusPoll (freshState 0#32 0#32 0#32 (List.replicate 1328 true ++ [])).bus 28 = none ∧
    Accepted .eraseAll (debugState 0#32 0#32 0#32 (List.replicate 1335 false ++ [])) ∧
    readyStatusPoll (debugState 0#32 0#32 0#32 (List.replicate 1335 false ++ [])).bus 35 = none := by
  refine ⟨by unfold Accepted; decide +kernel, status_never fun i hi => ?_, status_never fun i hi => ?_,
    by unfold Accepted; decide +kernel, status_never fun i hi => ?_⟩
  · rw [answer_run (k := 28 + 13 * i + 6) (n := 1328) rfl (by omega)]; rfl
  · rw [answer_run (k := 28 + 13 * i + 6) (n := 1328) rfl (by omega),
      answer_run (k := 28 + 13 * i + 5) (n := 1328) rfl (by omega)]; rfl
  · rw [answer_run (k := 35 + 13 * i + 6) (n := 1335) rfl (by omega)]; rfl

theorem witness_EnterPgmModeCompletes :
    Accepted .enterPgmMode (mtapState (List.replicate 310 true)) ∧
    injectionsEnd (mtapState (List.replicate 310 true)).bus 1 22 = some 166 ∧
    readyControlPoll (mtapState (List.replicate 310 true)).bus 166 = some 0 := by
  unfold Accepted; decide +kernel

/-- The first word not serviced, and the second. -/
theorem witness_EnterPgmModeTimeoutRaises :
    Accepted .enterPgmMode (mtapState (List.replicate 3733 false ++ [])) ∧
    preWords[0]? = some 0x3C04BF80#32 ∧
    injectionsEnd (mtapState (List.replicate 3733 false ++ [])).bus 0 22 = some 22 ∧
    readyControlPoll (mtapState (List.replicate 3733 false ++ [])).bus 22 = none ∧
    preWords[1]? = some 0x3484F400#32 ∧
    injectionsEnd (mtapState (List.replicate 166 true ++ (List.replicate 3711 false ++ []))).bus 1 22 =
      some 166 ∧
    readyControlPoll (mtapState (List.replicate 166 true ++ (List.replicate 3711 false ++ []))).bus 166 =
      none := by
  refine ⟨by unfold Accepted; decide +kernel, rfl, rfl,
    never_ready fun k hk => answer_run (n := 3733) rfl (by omega), rfl,
    all_ready 1 22 fun k hk => answer_run (n := 166) rfl (by omega), never_ready fun k hk => ?_⟩
  rw [← answer_later (n := 166) rfl List.length_replicate k]
  exact answer_run (n := 3711) rfl (by omega)

theorem witness_DownloadDataCompletes :
    Accepted .downloadData (debugState 0#32 0xDEADBEEF#32 0#32 (ready 5)) ∧
    Accepted .downloadData { bareDebugState 0x7FFC#32 (ready 5) with arg1 := 1#32 } ∧
    injectionsEnd (debugState 0#32 0xDEADBEEF#32 0#32 (ready 5)).bus 4 0 = some 576 ∧
    readyControlPoll (debugState 0#32 0xDEADBEEF#32 0#32 (ready 5)).bus 576 = some 0 := by
  unfold Accepted; decide +kernel

theorem witness_ReadWordCompletes :
    Accepted .readWord (debugState 0#32 0#32 0#32 (ready 5 ++ drain 7#32 true)) ∧
    Accepted .readWord (bareDebugState 0xFFFFFFFC#32 []) ∧
    injectionsEnd (debugState 0#32 0#32 0#32 (ready 5 ++ drain 7#32 true)).bus 5 0 = some 720 ∧
    drainPracc (debugState 0#32 0#32 0#32 (ready 5 ++ drain 7#32 true)).bus 720 = true := by
  unfold Accepted; decide +kernel

theorem witness_VerifyWordCompletes :
    Accepted .verifyWord (debugState 0x1D000000#32 7#32 0#32 (ready 5 ++ drain 7#32 true)) ∧
    injectionsEnd (debugState 0x1D000000#32 7#32 0#32 (ready 5 ++ drain 7#32 true)).bus 5 0 = some 720 ∧
    drainPracc (debugState 0x1D000000#32 7#32 0#32 (ready 5 ++ drain 7#32 true)).bus 720 = true ∧
    drainWord (debugState 0x1D000000#32 7#32 0#32 (ready 5 ++ drain 7#32 true)).bus 720 = 7#32 := by
  unfold Accepted; decide +kernel

theorem witness_VerifyWordMismatchRaises :
    Accepted .verifyWord (debugState 0x1D000000#32 7#32 0#32 (ready 5 ++ drain 6#32 true)) ∧
    injectionsEnd (debugState 0x1D000000#32 7#32 0#32 (ready 5 ++ drain 6#32 true)).bus 5 0 = some 720 ∧
    drainPracc (debugState 0x1D000000#32 7#32 0#32 (ready 5 ++ drain 6#32 true)).bus 720 = true ∧
    drainWord (debugState 0x1D000000#32 7#32 0#32 (ready 5 ++ drain 6#32 true)).bus 720 ≠ 7#32 := by
  unfold Accepted; decide +kernel

theorem legal_otherCatalog : LegalCatalog otherCatalog := ⟨otherRecords, _, rfl, rfl, by decide +kernel⟩

theorem legal_fixedCatalog : LegalCatalog State.reset.catalog :=
  ⟨[⟨0x04A01053#32, Param.name210F016B, 32#16, 3#16, 16#16⟩], _, rfl, rfl, by decide +kernel⟩

/-- The second record of a catalog, and the fixed catalog. -/
theorem witness_IdentifyCompletes :
    Accepted .identify (otherState 0x1000BBBB#32) ∧
    injectionsEnd (otherState 0x1000BBBB#32).bus 5 0 = some 720 ∧
    drainPracc (otherState 0x1000BBBB#32).bus 720 = true ∧
    (otherState 0x1000BBBB#32).catalog[1]? = some ⟨0xBBBB#32, Param.name210F016B, 16#16, 2#16, 8#16⟩ ∧
    0xBBBB#32 = drainWord (otherState 0x1000BBBB#32).bus 720 &&& 0x0FFFFFFF#32 ∧
    ((0xBBBB#32 : Word) ≠ 0#32 ∧ ∀ q, (otherState 0x1000BBBB#32).catalog[0]? = some q → q.id ≠ 0xBBBB#32) ∧
    Accepted .identify (bareDebugState 0#32 (ready 5 ++ drain 0xF4A01053#32 true)) ∧
    injectionsEnd (bareDebugState 0#32 (ready 5 ++ drain 0xF4A01053#32 true)).bus 5 0 = some 720 ∧
    drainPracc (bareDebugState 0#32 (ready 5 ++ drain 0xF4A01053#32 true)).bus 720 = true ∧
    (bareDebugState 0#32 (ready 5 ++ drain 0xF4A01053#32 true)).catalog = State.reset.catalog ∧
    drainWord (bareDebugState 0#32 (ready 5 ++ drain 0xF4A01053#32 true)).bus 720 &&& 0x0FFFFFFF#32 =
      0x04A01053#32 := by
  unfold Accepted
  refine ⟨by decide +kernel, by decide +kernel, by decide +kernel, rfl, by decide +kernel, ⟨by decide, ?_⟩,
    by decide +kernel, by decide +kernel, by decide +kernel, rfl, by decide +kernel⟩
  intro q hq
  rw [← Option.some.inj hq]; decide

/-- The masked word 0, a word no record of a catalog has, and one the fixed catalog has not. -/
theorem witness_IdentifyUnidentifiedRaises :
    Accepted .identify (otherState 0xF0000000#32) ∧
    injectionsEnd (otherState 0xF0000000#32).bus 5 0 = some 720 ∧
    drainPracc (otherState 0xF0000000#32).bus 720 = true ∧
    drainWord (otherState 0xF0000000#32).bus 720 &&& 0x0FFFFFFF#32 = 0#32 ∧
    (∀ r ∈ (otherState 0x04A01053#32).catalog,
      r.id ≠ drainWord (otherState 0x04A01053#32).bus 720 &&& 0x0FFFFFFF#32) ∧
    (debugState 0#32 0#32 0#32 (ready 5 ++ drain 0xAAAA#32 true)).catalog = State.reset.catalog ∧
    drainWord (debugState 0#32 0#32 0#32 (ready 5 ++ drain 0xAAAA#32 true)).bus 720 &&& 0x0FFFFFFF#32 ≠
      0x04A01053#32 := by unfold Accepted; decide +kernel

/-- The bounds of the two windows are accepted addresses. -/
theorem witness_ProgramWordFirstAttempt :
    Accepted .programWord (programState (attempt 0x4000#32 ++ [])) ∧
    Accepted .programWord (debugState 0x1D003FFC#32 0#32 0#32 []) ∧
    Accepted .programWord (debugState 0x1FC00000#32 0#32 0#32 []) ∧
    Accepted .programWord (debugState 0x1FC00BFC#32 0#32 0#32 []) ∧
    programAttempt (programState (attempt 0x4000#32 ++ [])).bus 0 = some (0x4000#32, 5127) ∧
    0x4000#32 &&& 0xB000#32 = 0#32 := by
  unfold Accepted
  exact ⟨by decide +kernel, by decide +kernel, by decide +kernel, by decide +kernel,
    first_attempt rfl (by decide +kernel) (by decide +kernel), by decide⟩

theorem witness_ProgramWordSecondAttempt :
    Accepted .programWord (programState (attempt 0x2000#32 ++ (attempt 0x0000#32 ++ []))) ∧
    programAttempt (programState (attempt 0x2000#32 ++ (attempt 0x0000#32 ++ []))).bus 0 =
      some (0x2000#32, 5127) ∧
    0x2000#32 &&& 0x8000#32 = 0#32 ∧ 0x2000#32 &&& 0x3000#32 ≠ 0#32 ∧
    programAttempt (programState (attempt 0x2000#32 ++ (attempt 0x0000#32 ++ []))).bus 5127 =
      some (0x0000#32, 10254) ∧
    0x0000#32 &&& 0xB000#32 = 0#32 := by
  unfold Accepted
  exact ⟨by decide +kernel, first_attempt rfl (by decide +kernel) (by decide +kernel), by decide,
    by decide, second_attempt rfl (by decide +kernel) (by decide +kernel), by decide⟩

theorem witness_ProgramWordFailsTwice :
    Accepted .programWord (programState (attempt 0x2000#32 ++ (attempt 0x1000#32 ++ []))) ∧
    programAttempt (programState (attempt 0x2000#32 ++ (attempt 0x1000#32 ++ []))).bus 0 =
      some (0x2000#32, 5127) ∧
    0x2000#32 &&& 0x8000#32 = 0#32 ∧ 0x2000#32 &&& 0x3000#32 ≠ 0#32 ∧
    programAttempt (programState (attempt 0x2000#32 ++ (attempt 0x1000#32 ++ []))).bus 5127 =
      some (0x1000#32, 10254) ∧
    (0x1000#32 &&& 0x8000#32 = 0#32 ∧ 0x1000#32 &&& 0x3000#32 ≠ 0#32) := by
  unfold Accepted
  exact ⟨by decide +kernel, first_attempt rfl (by decide +kernel) (by decide +kernel), by decide,
    by decide, second_attempt rfl (by decide +kernel) (by decide +kernel), by decide⟩

theorem witness_ProgramWordUnconfirmedRaises :
    (Accepted .programWord (programState (attempt 0xB000#32 ++ [])) ∧
      programAttempt (programState (attempt 0xB000#32 ++ [])).bus 0 = some (0xB000#32, 5127) ∧
      0xB000#32 &&& 0x8000#32 ≠ 0#32) ∧
    Accepted .programWord (programState (attempt 0x3000#32 ++ (attempt 0x8000#32 ++ []))) ∧
    programAttempt (programState (attempt 0x3000#32 ++ (attempt 0x8000#32 ++ []))).bus 0 =
      some (0x3000#32, 5127) ∧
    0x3000#32 &&& 0x8000#32 = 0#32 ∧ 0x3000#32 &&& 0x3000#32 ≠ 0#32 ∧
    programAttempt (programState (attempt 0x3000#32 ++ (attempt 0x8000#32 ++ []))).bus 5127 =
      some (0x8000#32, 10254) ∧
    0x8000#32 &&& 0x8000#32 ≠ 0#32 := by
  unfold Accepted
  exact ⟨⟨by decide +kernel, first_attempt rfl (by decide +kernel) (by decide +kernel), by decide⟩,
    by decide +kernel, first_attempt rfl (by decide +kernel) (by decide +kernel), by decide,
    by decide, second_attempt rfl (by decide +kernel) (by decide +kernel), by decide⟩

/-- Each operation code at a boundary address, and `ramAddr` at both of its bounds. -/
theorem witness_FlashOperationCompletes :
    Accepted .flashOperation (debugState 4#32 0x1D000400#32 0#32 (ready 30 ++ drain 0x3000#32 true)) ∧
    Accepted .flashOperation (debugState 1#32 0x1D003FFC#32 0x7FFC#32 []) ∧
    Accepted .flashOperation (debugState 3#32 0x1D003F80#32 0#32 []) ∧
    Accepted .flashOperation (debugState 4#32 0x1FC00800#32 0#32 []) ∧
    Accepted .flashOperation (debugState 5#32 0#32 0#32 []) ∧
    Accepted .flashOperation (debugState 5#32 0xFFFFFFFC#32 0#32 []) ∧
    injectionsEnd (debugState 4#32 0x1D000400#32 0#32 (ready 30 ++ drain 0x3000#32 true)).bus 30 0 =
      some 4320 ∧
    drainPracc (debugState 4#32 0x1D000400#32 0#32 (ready 30 ++ drain 0x3000#32 true)).bus 4320 = true ∧
    drainWord (debugState 4#32 0x1D000400#32 0#32 (ready 30 ++ drain 0x3000#32 true)).bus 4320 &&&
      0x8000#32 = 0#32 := by
  unfold Accepted
  refine ⟨by decide +kernel, by decide +kernel, by decide +kernel, by decide +kernel, by decide +kernel,
    by decide +kernel, all_ready 30 0 fun k hk => answer_run (n := 4320) rfl (by omega), ?_, ?_⟩
  · rw [← drainPracc_shift (off' := 0) fun k => by
      simpa using answer_later (pre := ready 30) (n := 4320) rfl (ready_length _) k]
    decide +kernel
  · rw [← drainWord_shift (off' := 0) fun k => by
      simpa using answer_later (pre := ready 30) (n := 4320) rfl (ready_length _) k]
    decide +kernel

theorem witness_FlashOperationUnconfirmedRaises :
    Accepted .flashOperation (debugState 1#32 0x1D000000#32 0#32 (ready 30 ++ drain 0x8000#32 true)) ∧
    injectionsEnd (debugState 1#32 0x1D000000#32 0#32 (ready 30 ++ drain 0x8000#32 true)).bus 30 0 =
      some 4320 ∧
    drainPracc (debugState 1#32 0x1D000000#32 0#32 (ready 30 ++ drain 0x8000#32 true)).bus 4320 = true ∧
    drainWord (debugState 1#32 0x1D000000#32 0#32 (ready 30 ++ drain 0x8000#32 true)).bus 4320 &&&
      0x8000#32 ≠ 0#32 := by
  unfold Accepted
  refine ⟨by decide +kernel, all_ready 30 0 fun k hk => answer_run (n := 4320) rfl (by omega), ?_, ?_⟩
  · rw [← drainPracc_shift (off' := 0) fun k => by
      simpa using answer_later (pre := ready 30) (n := 4320) rfl (ready_length _) k]
    decide +kernel
  · rw [← drainWord_shift (off' := 0) fun k => by
      simpa using answer_later (pre := ready 30) (n := 4320) rfl (ready_length _) k]
    decide +kernel

/-- Each of the five commands, accepted, with its words serviced and the second handshake bit 0. -/
theorem witness_DrainWithoutHandshakeRaises :
    Accepted .readWord (debugState 0#32 0#32 0#32 (ready 5 ++ drain 0#32 false)) ∧
    Accepted .verifyWord (debugState 0#32 0#32 0#32 (ready 5 ++ drain 0#32 false)) ∧
    Accepted .identify (debugState 0#32 0#32 0#32 (ready 5 ++ drain 0#32 false)) ∧
    injectionsEnd (debugState 0#32 0#32 0#32 (ready 5 ++ drain 0#32 false)).bus (rdWords 0#32).length 0 =
      some 720 ∧
    drainPracc (debugState 0#32 0#32 0#32 (ready 5 ++ drain 0#32 false)).bus 720 = false ∧
    injects .readWord (debugState 0#32 0#32 0#32 (ready 5 ++ drain 0#32 false)) =
      some (0x08#8, rdWords 0#32) ∧
    Accepted .flashOperation (debugState 1#32 0x1D000000#32 0#32 (ready 30 ++ drain 0#32 false)) ∧
    injectionsEnd (debugState 1#32 0x1D000000#32 0#32 (ready 30 ++ drain 0#32 false)).bus
      (foWords 1#32 0x1D000000#32 0#32).length 0 = some 4320 ∧
    drainPracc (debugState 1#32 0x1D000000#32 0#32 (ready 30 ++ drain 0#32 false)).bus 4320 = false ∧
    Accepted .programWord (programState (ready 35 ++ drain 0#32 false)) ∧
    injectionsEnd (programState (ready 35 ++ drain 0#32 false)).bus 35 0 = some 5040 ∧
    drainPracc (programState (ready 35 ++ drain 0#32 false)).bus 5040 = false := by
  unfold Accepted; decide +kernel

/-- The same in the second attempt of PROGRAM_WORD. -/
theorem witness_DrainWithoutHandshakeRaises_second :
    Accepted .programWord (programState (attempt 0x2000#32 ++ (ready 35 ++ (drain 7#32 false ++ [])))) ∧
    programAttempt (programState (attempt 0x2000#32 ++ (ready 35 ++ (drain 7#32 false ++ [])))).bus 0 =
      some (0x2000#32, 5127) ∧
    0x2000#32 &&& 0x8000#32 = 0#32 ∧ 0x2000#32 &&& 0x3000#32 ≠ 0#32 ∧
    injectionsEnd (programState (attempt 0x2000#32 ++ (ready 35 ++ (drain 7#32 false ++ [])))).bus 35 5127 =
      some 10167 ∧
    drainPracc (programState (attempt 0x2000#32 ++ (ready 35 ++ (drain 7#32 false ++ [])))).bus 10167 =
      false := by
  unfold Accepted
  refine ⟨by decide +kernel, first_attempt rfl (by decide +kernel) (by decide +kernel), by decide, by decide,
    second_ready 35 rfl, ?_⟩
  rw [← drainPracc_shift (off' := 0) fun k => by
    simpa using after_attempt (pre := ready 35) (n := 5040) rfl (ready_length _) k]
  decide +kernel

/-- The first word of five not serviced, the last of five, and the last of thirty-five. -/
theorem witness_InjectionTimeoutRaises :
    Accepted .readWord (debugState 0#32 0#32 0#32 (List.replicate 3711 false ++ [])) ∧
    injects .readWord (debugState 0#32 0#32 0#32 (List.replicate 3711 false ++ [])) =
      some (0x08#8, rdWords 0#32) ∧
    (rdWords 0#32)[0]? = some 0x3C13FF20#32 ∧ (rdWords 0#32)[4]? = some 0xAE690000#32 ∧
    injectionsEnd (debugState 0#32 0#32 0#32 (List.replicate 3711 false ++ [])).bus 0 0 = some 0 ∧
    readyControlPoll (debugState 0#32 0#32 0#32 (List.replicate 3711 false ++ [])).bus 0 = none ∧
    injectionsEnd
      (debugState 0#32 0#32 0#32 (ready 4 ++ (List.replicate 3711 false ++ []))).bus 4 0 = some 576 ∧
    readyControlPoll
      (debugState 0#32 0#32 0#32 (ready 4 ++ (List.replicate 3711 false ++ []))).bus 576 = none ∧
    Accepted .programWord (programState (ready 34 ++ (List.replicate 3711 false ++ []))) ∧
    (dlWords 0#32 0xDEADBEEF#32 ++ foWords 1#32 0x1D000000#32 0#32)[34]? = some 0xAE680000#32 ∧
    injectionsEnd (programState (ready 34 ++ (List.replicate 3711 false ++ []))).bus 34 0 = some 4896 ∧
    readyControlPoll (programState (ready 34 ++ (List.replicate 3711 false ++ []))).bus 4896 = none := by
  unfold Accepted
  refine ⟨by decide +kernel, by decide +kernel, by decide +kernel, by decide +kernel, rfl,
    never_ready fun k hk => answer_run (n := 3711) rfl (by omega),
    all_ready 4 0 fun k hk => answer_run (n := 576) rfl (by omega), never_ready fun k hk => ?_,
    by decide +kernel, by decide +kernel,
    all_ready 34 0 fun k hk => answer_run (n := 4896) rfl (by omega), never_ready fun k hk => ?_⟩
  · rw [← answer_later (pre := ready 4) (n := 576) rfl (ready_length _) k]
    exact answer_run (n := 3711) rfl (by omega)
  · rw [← answer_later (pre := ready 34) (n := 4896) rfl (ready_length _) k]
    exact answer_run (n := 3711) rfl (by omega)

/-- The same in the second attempt of PROGRAM_WORD: its first word, and its last. -/
theorem witness_InjectionTimeoutRaises_second :
    Accepted .programWord (programState (attempt 0x1000#32 ++ (ready 0 ++ (List.replicate 3711 false ++ [])))) ∧
    programAttempt (programState (attempt 0x1000#32 ++ (ready 0 ++ (List.replicate 3711 false ++ [])))).bus 0 =
      some (0x1000#32, 5127) ∧
    0x1000#32 &&& 0x8000#32 = 0#32 ∧ 0x1000#32 &&& 0x3000#32 ≠ 0#32 ∧
    (dlWords 0#32 0xDEADBEEF#32 ++ foWords 1#32 0x1D000000#32 0#32)[0]? = some 0x3C10A000#32 ∧
    injectionsEnd (programState (attempt 0x1000#32 ++ (ready 0 ++ (List.replicate 3711 false ++ [])))).bus
      0 5127 = some 5127 ∧
    readyControlPoll (programState (attempt 0x1000#32 ++ (ready 0 ++ (List.replicate 3711 false ++ [])))).bus
      5127 = none ∧
    (dlWords 0#32 0xDEADBEEF#32 ++ foWords 1#32 0x1D000000#32 0#32)[34]? = some 0xAE680000#32 ∧
    injectionsEnd (programState (attempt 0x1000#32 ++ (ready 34 ++ (List.replicate 3711 false ++ [])))).bus
      34 5127 = some 10023 ∧
    readyControlPoll (programState (attempt 0x1000#32 ++ (ready 34 ++ (List.replicate 3711 false ++ [])))).bus
      10023 = none := by
  unfold Accepted
  refine ⟨by decide +kernel, first_attempt rfl (by decide +kernel) (by decide +kernel), by decide, by decide,
    by decide +kernel, second_ready 0 rfl, never_ready fun k hk => ?_, by decide +kernel, second_ready 34 rfl,
    never_ready fun k hk => ?_⟩
  · rw [← after_attempt (pre := ready 0) (n := 0) rfl (ready_length _) k]
    exact answer_run (n := 3711) rfl (by omega)
  · rw [← after_attempt (pre := ready 34) (n := 4896) rfl (ready_length _) k]
    exact answer_run (n := 3711) rfl (by omega)

/-- Width 0, 1 and 32 of the three raw commands that have a width. -/
theorem witness_raw_widths :
    ∀ w ∈ [0, 1, 32], ∀ i ∈ [Instr.rawSetMode, .rawSendCommand, .rawXferData],
      Accepted i (freshState (BitVec.ofNat 32 w) 0x1F#32 0#32 []) := by
  unfold Accepted; decide +kernel

theorem witness_RawXferFastDataCompletes :
    Accepted .rawXferFastData (debugState 0xCAFEF00D#32 0#32 0#32 []) := by unfold Accepted; decide +kernel

/-- Ready on the first poll, on the last, and never. -/
theorem witness_RawXferInstructionCompletes :
    Accepted .rawXferInstruction (debugState 0x3C04BF80#32 0#32 0#32 (ready 1)) ∧
    readyControlPoll (debugState 0x3C04BF80#32 0#32 0#32 (ready 1)).bus 0 = some 0 ∧
    readyControlPoll (debugState 0#32 0#32 0#32 (List.replicate 3677 false ++ ready 1)).bus 0 = some 99 ∧
    readyControlPoll (debugState 0#32 0#32 0#32 (List.replicate 3711 false ++ [])).bus 0 = none := by
  unfold Accepted
  refine ⟨by decide +kernel, by decide +kernel,
    ready_at_last (fun k hk => answer_run (n := 3677) rfl (by omega)) ?_,
    never_ready fun k hk => answer_run (n := 3711) rfl (by omega)⟩
  rw [show 0 + 3695 = 3677 + 18 by rfl, ← answer_later (n := 3677) rfl List.length_replicate 18]
  decide +kernel

theorem witness_ReservedOpcodesRefuse :
    (0x0C#8 = 0x0C#8 ∧ 0x15#8 ≤ 0x15#8 ∧ (0x15#8 : Byte) ≤ 0xFF#8) ∧
    (∀ i ∈ [Instr.reserved0C 0#1, .reserved0F, .reserved15, .reserved16 1#1, .reserved18 0#3, .reserved20 1#5,
      .reserved40 0#6, .reserved80 127#7], isReserved i = true) := by decide +kernel

/-- Every row that runs as a scan by itself, in a session with no latched error and in a fatal one. -/
theorem witness_rows :
    (debugState 0#32 0#32 0#32 []).fatal = false ∧ fatalState.fatal = true ∧
    irRow (.sendCommand5 31#5) = some 31#32 ∧ irRow .mtapSwMtap = some 0x04#32 ∧
    irRow .mtapSwEtap = some 0x05#32 ∧ irRow .etapFastdata = some 0x0E#32 ∧
    drRow (.xferData8 0xFF#8) = some (8, 0xFF#32) ∧ drRow (.xferData32 0#32) = some (32, 0#32) ∧
    drRow .mchpErase = some (8, 0xFC#32) ∧ drRow .ctrlProceed = some (32, 0xC000#32) ∧
    injectedRow (.lui 31#5 0xFFFF#16) = some 0x3C1FFFFF#32 ∧ injectedRow .mipsNop = some 0#32 ∧
    injectedRow (.bne 31#5 0#5 0#16) = some 0x17E00000#32 ∧ injectedRow (.dlD3 0x7FFC#16) = some 0xAE087FFC#32 ∧
    responseRow fatalState .rspOk = some (0#32, 0#32, 0#32) ∧
    responseRow fatalState .rspVerifyMismatch = some (5#32, 0xDEADBEEE#32, 0xDEADBEEF#32) ∧
    responseRow fatalState .rspUnknownOpcode = some (11#32, 0#32, 0#32) := by decide +kernel

theorem witness_SessionFatalRefuses :
    hostOpcode .waitReady = some 0x01#8 ∧ hostOpcode .rawXferInstruction = some 0x14#8 ∧
    fatalState.fatal = true ∧ passesLatch .waitReady = false ∧ passesLatch .rawXferInstruction = false := by
  decide +kernel

/-- Every row of the legality table that forbids a command, after reset or without an identity. -/
theorem witness_IllegalStateRefuses :
    (∀ i ∈ [Instr.enterPgmMode, .exitPgmMode, .eraseAll, .identify, .programWord, .readWord, .verifyWord,
        .downloadData, .flashOperation],
      (hostOpcode i).isSome = true ∧ State.reset.fatal = false ∧ allowedNow i State.reset = false) ∧
    (∀ i ∈ [Instr.eraseAll, .programWord, .flashOperation], allowedNow i (bareDebugState 0#32 []) = false) ∧
    allowedNow .enterPgmMode (debugState 0#32 0#32 0#32 []) = false := by decide +kernel

/-- Each operand check at its bounds: misaligned, one past a window, off a granule, no such code, a width
of 33, and a granule of size 0. -/
theorem witness_BadArgumentRefuses :
    (∀ a ∈ [0x1D000001, 0x1D003FFD, 0x1D004000, 0x1CFFFFFC, 0x1FBFFFFC, 0x1FC00C00, 0xFFFFFFFC],
      allowedNow .programWord (debugState (BitVec.ofNat 32 a) 0#32 0#32 []) = true ∧
      operandsOk .programWord (debugState (BitVec.ofNat 32 a) 0#32 0#32 []) = false) ∧
    (∀ i ∈ [Instr.readWord, .verifyWord, .downloadData],
      allowedNow i (debugState 2#32 0#32 0#32 []) = true ∧
      operandsOk i (debugState 2#32 0#32 0#32 []) = false) ∧
    operandsOk .downloadData (debugState 0x8000#32 0#32 0#32 []) = false ∧
    (∀ r ∈ [(0, 0x1D000000, 0), (2, 0x1D000000, 0), (6, 0x1D000000, 0), (0x10001, 0x1D000000, 0),
        (1, 0x1D000000, 0x8000), (1, 0x1D000000, 2), (3, 0x1D000040, 0), (3, 0x1D004000, 0),
        (4, 0x1FC00C00, 0), (5, 1, 0)],
      allowedNow .flashOperation
        (debugState (BitVec.ofNat 32 r.1) (BitVec.ofNat 32 r.2.1) (BitVec.ofNat 32 r.2.2) []) = true ∧
      operandsOk .flashOperation
        (debugState (BitVec.ofNat 32 r.1) (BitVec.ofNat 32 r.2.1) (BitVec.ofNat 32 r.2.2) []) = false) ∧
    operandsOk .flashOperation
      { debugState 3#32 0x1D000000#32 0#32 [] with ident := { fixedIdent with rowWords := 0#16 } } = false ∧
    (∀ i ∈ [Instr.rawSetMode, .rawSendCommand, .rawXferData],
      allowedNow i (freshState 33#32 0#32 0#32 []) = true ∧
      operandsOk i (freshState 33#32 0#32 0#32 []) = false) := by decide +kernel

theorem witness_EveryCommandEnds :
    hostOpcode .nop = some 0x00#8 ∧ hostOpcode .programWord = some 0x07#8 ∧
    hostOpcode .clearError = some 0x0E#8 := by decide

/-- Ends with each of the five errors, and without one. -/
theorem witness_ErrorsAreTaken :
    (∃ t, exec .waitReady (freshState 0#32 0#32 0#32 (List.replicate 1328 false)) = .next t ∧
      (t.rsp == 1#32) = true) ∧
    (∃ t, exec .readWord (debugState 0#32 0#32 0#32 (ready 5 ++ drain 0#32 false)) = .next t ∧
      (t.rsp == 2#32) = true) ∧
    (∃ t, exec .identify (debugState 0#32 0#32 0#32 (ready 5 ++ drain 0#32 true)) = .next t ∧
      (t.rsp == 4#32) = true) ∧
    (∃ t, exec .verifyWord (debugState 0#32 7#32 0#32 (ready 5 ++ drain 6#32 true)) = .next t ∧
      (t.rsp == 5#32) = true) ∧
    (∃ t, exec .programWord (programState (attempt 0x1000#32 ++ attempt 0x2000#32)) = .next t ∧
      (t.rsp == 3#32) = true) ∧
    (∃ t, exec .readWord fatalState = .next t ∧ (t.rsp == 10#32) = true) :=
  ⟨gives_next (by decide +kernel), gives_next (by decide +kernel), gives_next (by decide +kernel),
    gives_next (by decide +kernel), gives_next (by decide +kernel), gives_next (by decide +kernel)⟩

/-- An OK command that leaves DebugMode, one that keeps an identity, one that makes it, and a refused one. -/
theorem witness_DeviceStateTransitions :
    (∃ t, exec .exitPgmMode (debugState 0#32 0#32 0#32 (List.replicate 17 false)) = .next t ∧
      (t.rsp == 0#32 && !passesLatch .exitPgmMode && t.dev != .debugMode) = true) ∧
    (∃ t, exec .nop (debugState 0#32 0#32 0#32 []) = .next t ∧ (t.rsp == 0#32 && t.ident.valid) = true) ∧
    (∃ t, exec .identify (bareDebugState 0#32 (ready 5 ++ drain 0x04A01053#32 true)) = .next t ∧
      (t.rsp == 0#32 && t.ident.valid) = true) ∧
    (∃ t, exec .programWord (bareDebugState 0#32 []) = .next t ∧ (t.rsp == 8#32) = true) :=
  ⟨gives_next (by decide +kernel), gives_next (by decide +kernel), gives_next (by decide +kernel),
    gives_next (by decide +kernel)⟩

/-- The invariant holds of a state of each legal device state, and of a fatal one. -/
theorem witness_EngineInv :
    EngineInv (mtapState []) ∧ EngineInv (debugState 0#32 0#32 0#32 []) ∧ EngineInv fatalState ∧
    EngineInv { State.reset with dev := .reset } := by
  unfold EngineInv Inv43 IdleCountsNone
  exact ⟨by decide +kernel, by decide +kernel, by decide +kernel, by decide +kernel⟩

/-- A step from DebugMode that leaves it, from a state with the invariant. -/
theorem witness_StepKeepsInvariant :
    EngineInv { debugState 0#32 0#32 0#32 [] with requests := [.write 0#32 0x05#32] } ∧
    (∃ t, step { debugState 0#32 0#32 0#32 [] with requests := [.write 0#32 0x05#32] } = .next t ∧
      (t.dev == .unknown) = true) :=
  ⟨by unfold EngineInv Inv43 IdleCountsNone; decide +kernel, steps_next (by decide +kernel)⟩

/-- A run starts with any legal catalog. -/
theorem witness_Reachable_other : Reachable { State.reset with catalog := otherCatalog } :=
  .reset _ legal_otherCatalog

/-- A run: the host asserts the target's reset, and the engine steps. -/
theorem witness_ReachableStatesKeepR43 :
    ∃ t, Reachable t ∧ t.bus.log.length = 10 := by
  obtain ⟨t, ht, hp⟩ := steps_next
    (s := { State.reset with
      bus := { State.reset.bus with tdoIn := [] }, requests := [.write 0#32 0x05#32] })
    (p := fun t => t.bus.log.length == 10) (by decide +kernel)
  exact ⟨t, .step _ _ (.environment _ _ _ (.reset _ legal_fixedCatalog)) ht, by simpa using hp⟩

/-- Widths 1 and 32, between scans; the shadow states of the frames are those of B1.3. -/
theorem witness_ScansReturnToIdle :
    (1 : Nat) ≠ 0 ∧ (32 : Nat) ≠ 0 ∧ AtIdle (debugState 0#32 0#32 0#32 (List.replicate 38 true)).bus := by
  unfold AtIdle; decide +kernel

/-- Three and four high pulses counted, from a known state and from none. -/
theorem witness_ShadowTapGraph :
    ({ State.reset.bus with tap := .exit2IR, ones := 3#3 } : TapSession).tap = .exit2IR ∧
    ({ State.reset.bus with tap := .exit2IR, ones := 3#3 } : TapSession).ones.toNat + 1 < 5 ∧
    State.reset.bus.tap = .unknownTap ∧ State.reset.bus.ones.toNat + 1 < 5 ∧
    5 ≤ ({ State.reset.bus with ones := 4#3 } : TapSession).ones.toNat + 1 := by decide +kernel

theorem witness_TraceOnlyGrows :
    ∃ t, step { mtapState (List.replicate 310 true) with requests := [.write 0#32 0x02#32] } = .next t ∧
      (events t == 1552) = true := steps_next (by decide +kernel)

/-- An injected template whose second word is not serviced. -/
theorem witness_CountCheckNeverFails :
    ∃ (t : State) (e : RaiseInfo),
      injectTemplate templatePre templatePre.length
        (debugState 0#32 0#32 0#32 (ready 1 ++ (List.replicate 3711 false ++ []))) = .raised e t := by
  obtain ⟨b, poll, step, h, -⟩ := injectTemplate_timeout templatePre templatePre.length preWords
    (by decide +kernel) 1 0x3484F400#32 (by decide +kernel)
    (debugState 0#32 0#32 0#32 (ready 1 ++ (List.replicate 3711 false ++ []))) 144
    (all_ready 1 0 fun k hk => answer_run (n := 144) rfl (by omega))
    (never_ready fun k hk => by
      rw [← answer_later (pre := ready 1) (n := 144) rfl (ready_length _) k]
      exact answer_run (n := 3711) rfl (by omega))
  exact ⟨_, _, h⟩

/-- A read that succeeds, with a word some record has and one none has. -/
theorem witness_CatalogFirstMatchWins :
    injectionsEnd (bareDebugState 0#32 (ready 5 ++ drain 0xF4A01053#32 true)).bus 5 0 = some 720 ∧
    drainPracc (bareDebugState 0#32 (ready 5 ++ drain 0xF4A01053#32 true)).bus 720 = true ∧
    (scanCatalog (drainWord (bareDebugState 0#32 (ready 5 ++ drain 0xF4A01053#32 true)).bus 720 &&&
      0x0FFFFFFF#32) 0 Param.catalog).isSome = true ∧
    scanCatalog (drainWord (bareDebugState 0#32 (ready 5 ++ drain 0xF4A01053#32 true)).bus 720 &&&
      0x0FFFFFFF#32) 0 [] = none := by decide +kernel

end Sys2Proof.Machine.Tests
end

section
/-! IDENTIFY (R210, R220): which record the scan of a catalog finds, what the command does for either answer
of the scan, and the two statements about it. -/

namespace Sys2Proof.Machine

/-! ### The scan of a catalog (R40, R83, R210) -/

/-- The number given to the first record only shifts the index found. -/
theorem scanCatalog_succ (id : Word) (n : Nat) (catalog : List DeviceRecord) :
    scanCatalog id (n + 1) catalog = (scanCatalog id n catalog).map fun p => (p.1 + 1, p.2) := by
  induction catalog generalizing n with
  | nil => rfl
  | cons q rest ih =>
    simp only [scanCatalog]
    split
    · rfl
    · split
      · rfl
      · exact ih (n + 1)

/-- The scan finds the first record with the identifier, if no sentinel stands before it. -/
theorem scanCatalog_eq_some_iff {id : Word} {catalog : List DeviceRecord} {i : Nat} {r : DeviceRecord} :
    scanCatalog id 0 catalog = some (i, r) ↔
      catalog[i]? = some r ∧ r.id = id ∧ id ≠ 0#32 ∧
        ∀ j < i, ∃ q, catalog[j]? = some q ∧ q.id ≠ id ∧ q.id ≠ 0#32 := by
  induction catalog generalizing i with
  | nil => simp [scanCatalog]
  | cons q rest ih =>
    rw [scanCatalog, scanCatalog_succ]
    by_cases hsentinel : q.id = 0#32
    · cases i with
      | zero => simp [hsentinel]; rintro rfl rfl; exact hsentinel
      | succ i => rw [Nat.forall_lt_succ_left']; simp [hsentinel]
    by_cases hmatch : q.id = id
    · subst hmatch
      cases i with
      | zero => simp [hsentinel]; rintro rfl; rfl
      | succ i => rw [Nat.forall_lt_succ_left']; simp [hsentinel]
    · cases i with
      | zero => simp [hsentinel, hmatch]; rintro rfl h; exact absurd h hmatch
      | succ i => rw [Nat.forall_lt_succ_left']; simp [hsentinel, hmatch, ih]

/-- The scan finds nothing for the identifier 0, nor for one that no record has. -/
theorem scanCatalog_eq_none {id : Word} {catalog : List DeviceRecord}
    (h : id = 0#32 ∨ ∀ r ∈ catalog, r.id ≠ id) : scanCatalog id 0 catalog = none := by
  rw [Option.eq_none_iff_forall_ne_some]
  rintro ⟨i, r⟩ hfound
  obtain ⟨hget, hid, hne, -⟩ := scanCatalog_eq_some_iff.mp hfound
  cases h with
  | inl hzero => exact hne hzero
  | inr habsent => exact habsent r (List.mem_of_getElem? hget) hid

/-- In a legal catalog nothing before a record that is not the sentinel is a sentinel. -/
theorem LegalCatalog.id_ne_zero_before {catalog : List DeviceRecord} (hc : LegalCatalog catalog) {i j : Nat}
    {r q : DeviceRecord} (hr : catalog[i]? = some r) (hq : catalog[j]? = some q) (hj : j < i) :
    q.id ≠ 0#32 := by
  obtain ⟨records, sentinel, rfl, -, hrecords⟩ := hc
  have hi : i < (records ++ [sentinel]).length := (List.getElem?_eq_some_iff.mp hr).1
  rw [List.length_append, List.length_singleton] at hi
  rw [List.getElem?_append_left (by omega)] at hq
  exact hrecords q (List.mem_of_getElem? hq)

/-- In a legal catalog the scan finds the first record with an identifier that is not 0. -/
theorem LegalCatalog.scanCatalog_eq_some {catalog : List DeviceRecord} (hc : LegalCatalog catalog) {i : Nat}
    {r : DeviceRecord} (hget : catalog[i]? = some r) (hid : r.id ≠ 0#32)
    (hfirst : ∀ j < i, ∀ q, catalog[j]? = some q → q.id ≠ r.id) :
    scanCatalog r.id 0 catalog = some (i, r) := by
  refine scanCatalog_eq_some_iff.mpr ⟨hget, rfl, hid, fun j hj => ?_⟩
  have hi : i < catalog.length := (List.getElem?_eq_some_iff.mp hget).1
  have hq : catalog[j]? = some catalog[j] := List.getElem?_eq_getElem (by omega)
  exact ⟨_, hq, hfirst j hj _ hq, hc.id_ne_zero_before hget hq hj⟩

/-! ### IDENTIFY for either answer of the scan (R210, R220, R250) -/

/-- An accepted IDENTIFY is Identify over the machine's catalog, ended (R212, R220). -/
theorem exec_identify_accepted {s : State} (ha : Accepted .identify s) :
    exec .identify s = .next (finish 0x06#8
      ((identifyIn s.catalog (s.accepted 0x06#8)).andThen fun i t =>
        .done (t.ident.id, BitVec.ofNat 32 i) t)) :=
  congrArg _ ((checks_identify s).accept ha _)

section served
variable {s : State} {e : Nat} (ha : Accepted .identify s) (he : injectionsEnd s.bus 5 0 = some e)
  (hd : drainPracc s.bus e = true)
include ha he hd

/-- IDENTIFY of a word whose record the scan finds (R210, R220). -/
theorem identify_found {i : Nat} {r : DeviceRecord}
    (hscan : scanCatalog (drainWord s.bus e &&& 0x0FFFFFFF#32) 0 s.catalog = some (i, r)) :
    ∃ t, exec .identify s = .next t ∧
      OkEnd s t (drainWord s.bus e &&& 0x0FFFFFFF#32) (BitVec.ofNat 32 i) 5#32 ∧ t.dev = s.dev ∧
      t.ident = identOf (drainWord s.bus e &&& 0x0FFFFFFF#32) r ∧
      t.res = { value := drainWord s.bus e, pracc := true } ∧
      DidScans s.bus t.bus (injectionsActions s.bus 0 (rdWords 0xBF80F220#32) ++ drainActions)
        s.bus.pins.rst ∧
      (AtIdle s.bus → ShadowAt t.bus (ir5 0x0E#32) s.bus.tapSel) := by
  obtain ⟨b, poll, step, hrun, hb⟩ := identifyIn_serviced s.catalog (s.accepted 0x06#8) e he hd
  simp only [accepted_bus, hscan] at hrun hb
  have hexec := exec_identify_accepted ha
  rw [hrun] at hexec
  refine ⟨_, hexec, ?_, rfl, rfl, rfl, hb.didScans, hb.idle⟩
  exact okEnd_wired (s := { s with ident := identOf (drainWord s.bus e &&& 0x0FFFFFFF#32) r })

/-- IDENTIFY of a word for which the scan finds no record (R210, R244, R250). -/
theorem identify_unidentified
    (hscan : scanCatalog (drainWord s.bus e &&& 0x0FFFFFFF#32) 0 s.catalog = none) :
    ∃ t, exec .identify s = .next t ∧
      ErrorEnd s t 4#4 0x06#8 0xBF80F220#32 (drainWord s.bus e) 0#32 5#32 ∧ t.dev = s.dev ∧
      t.ident = { s.ident with valid := false } ∧
      t.res = { value := drainWord s.bus e, pracc := true } ∧
      DidScans s.bus t.bus (injectionsActions s.bus 0 (rdWords 0xBF80F220#32) ++ drainActions)
        s.bus.pins.rst ∧
      (AtIdle s.bus → ShadowAt t.bus (ir5 0x0E#32) s.bus.tapSel) := by
  obtain ⟨b, poll, step, hrun, hb⟩ := identifyIn_serviced s.catalog (s.accepted 0x06#8) e he hd
  simp only [accepted_bus, hscan] at hrun hb
  have hexec := exec_identify_accepted ha
  rw [hrun] at hexec
  refine ⟨_, hexec, ?_, rfl, rfl, rfl, hb.didScans, hb.idle⟩
  exact errorEnd_wired (s := { s with ident := { s.ident with valid := false } })

end served

/-! ### The statements -/

/-- Settles O23: the record of the statement is the one the scan finds; the fixed catalog is scanned by
`scanCatalog_fixed`. -/
theorem identifyCompletes : Obligations.IdentifyCompletes := by
  intro s e ha he hd
  constructor
  · intro i r hc hget hid hne hfirst
    have hscan := hc.scanCatalog_eq_some hget hne hfirst
    rw [hid] at hscan
    obtain ⟨t, hexec, hend, hdev, hident, hres, hdid, hshadow⟩ := identify_found ha he hd hscan
    rw [← hid] at hend hident
    exact ⟨t, hexec, hend, hdev, hident, hres, hdid, hshadow⟩
  · intro hcat hword
    have hscan := scanCatalog_fixed (drainWord s.bus e &&& 0x0FFFFFFF#32)
    rw [if_pos hword, show Param.catalog = s.catalog from hcat.symm] at hscan
    obtain ⟨t, hexec, hend, -, hident, -⟩ := identify_found ha he hd hscan
    rw [hword] at hend hident
    exact ⟨t, hexec, hend, hident⟩

/-- Settles O24: in every case of the hypothesis the scan finds no record. -/
theorem identifyUnidentifiedRaises : Obligations.IdentifyUnidentifiedRaises := by
  intro s e ha he hd hunknown
  refine identify_unidentified ha he hd ?_
  obtain ⟨-, habsent⟩ | ⟨hcat, hword⟩ := hunknown
  · exact scanCatalog_eq_none habsent
  · rw [show s.catalog = Param.catalog from hcat, scanCatalog_fixed, if_neg hword]

end Sys2Proof.Machine
end

section
/-! What one step serves (R34, R45, R97, R280): one equation for each request that starts no instruction, and
once for all what a step that answers a next state can have done. -/

namespace Sys2Proof.Machine

/-! ### The step for each request -/

theorem served_eq {s : State} {r : Request} {rest : List Request} (h : s.requests = r :: rest) :
    s.served = { s with requests := rest } := by
  rw [State.served, h, List.tail_cons]

theorem step_of_no_request {s : State} (h : s.requests = []) : step s = .next s := by
  rw [step, fetch, h]

theorem step_write {s : State} {offset value : Word} {rest : List Request}
    (h : s.requests = .write offset value :: rest) (hoffset : offset ≠ 0x00#32) :
    step s = .next (hostWrite { s with requests := rest } offset value) := by
  simp [step, fetch, h, hCmdOffset, hoffset, served_eq h]

theorem step_write_ignored {s : State} {value : Word} {rest : List Request}
    (h : s.requests = .write 0x00#32 value :: rest) (hbusy : s.busy = true) :
    step s = .next { s with requests := rest } := by
  simp [step, fetch, h, hCmdOffset, fetchCommand, hbusy, served_eq h]

theorem step_word_ignored {s : State} {format : Format} {bytes : List Byte} {rest : List Request}
    (h : s.requests = .word format bytes :: rest) (hbusy : s.busy = true) :
    step s = .next { s with requests := rest } := by
  simp [step, fetch, h, fetchCommand, hbusy, served_eq h]

theorem step_reset {s : State} {rest : List Request} (h : s.requests = .reset :: rest) :
    step s = .next s.served.restart := by
  rw [step, fetch, h]

/-- A write of an offset that is no operand register is ignored (R45). -/
theorem hostWrite_ignored {offset : Word} (h0 : offset ≠ 0x04#32) (h1 : offset ≠ 0x08#32)
    (h2 : offset ≠ 0x0C#32) (s : State) (value : Word) : hostWrite s offset value = s := by
  simp [hostWrite, h0, h1, h2]

/-! ### What a step can have done -/

/-- A host write changes operand registers only (R45). -/
theorem hostWrite_cases (s : State) (offset value : Word) :
    ∃ a0 a1 a2, hostWrite s offset value = { s with arg0 := a0, arg1 := a1, arg2 := a2 } := by
  rw [hostWrite]
  split
  · exact ⟨value, s.arg1, s.arg2, rfl⟩
  split
  · exact ⟨s.arg0, value, s.arg2, rfl⟩
  split
  · exact ⟨s.arg0, s.arg1, value, rfl⟩
  · exact ⟨s.arg0, s.arg1, s.arg2, rfl⟩

/-- The ways in which a step answers a next state. -/
inductive StepServes (s : State) : State → Prop where
  | idle : StepServes s s
  | ignored : StepServes s s.served
  | restarted : s.requests.head? = some .reset → StepServes s s.served.restart
  | wrote (a0 a1 a2 : Word) : StepServes s { s.served with arg0 := a0, arg1 := a1, arg2 := a2 }
  | executed (i : Instr) (t : State) : exec i s.served = .next t → StepServes s t

/-- The reset input is the only request that is fetched as one (R280). -/
theorem head?_of_fetch_reset {s : State} (h : fetch s = .reset) : s.requests.head? = some .reset := by
  have hcommand : ∀ format bytes, fetchCommand s format bytes ≠ .reset := by
    intro format bytes
    rw [fetchCommand]
    split
    · exact Fetched.noConfusion
    · split <;> exact Fetched.noConfusion
  rw [fetch] at h
  split at h
  case h_1 => cases h
  case h_2 =>
    split at h
    · exact absurd h (hcommand _ _)
    · cases h
  case h_3 => exact absurd h (hcommand _ _)
  case h_4 hrequests => rw [hrequests]; rfl

theorem stepServes_of_step {s t : State} (h : step s = .next t) : StepServes s t := by
  rw [step] at h
  split at h
  case h_1 => cases h; exact .idle
  case h_2 => cases h; exact .ignored
  case h_3 hfetch => cases h; exact .restarted (head?_of_fetch_reset hfetch)
  case h_4 offset value _ =>
    obtain ⟨a0, a1, a2, hwrite⟩ := hostWrite_cases s.served offset value
    rw [hwrite] at h
    cases h
    exact .wrote a0 a1 a2
  case h_5 i _ => exact .executed i t h
  case h_6 => cases h

/-- Settles O3, a clause for each kind of request by the equation of the step for it. -/
theorem stepServesHostWrites : Obligations.StepServesHostWrites := by
  intro s
  refine ⟨step_of_no_request, fun offset value rest h => ⟨?_, ?_, ?_, ?_, ?_⟩,
    fun _ _ _ h hbusy => step_word_ignored h hbusy, fun rest h => ?_⟩
  · rintro rfl; exact step_write h (by decide)
  · rintro rfl; exact step_write h (by decide)
  · rintro rfl; exact step_write h (by decide)
  · intro hcmd h0 h1 h2
    rw [step_write h hcmd, hostWrite_ignored h0 h1 h2]
  · rintro rfl hbusy; exact step_write_ignored h hbusy
  · refine ⟨_, step_reset h, restart_trace s.served, ?_⟩
    rw [served_eq h]; rfl

end Sys2Proof.Machine
end

section
/-! The invariant of R43: reset has it, every instruction and so every step keeps it, and every state of a run
from reset has it. -/

namespace Sys2Proof.Machine

/-- Settles O51: after reset the device state is Unknown and the latch is empty (R50). -/
theorem resetHasInvariant : Obligations.ResetHasInvariant := by
  refine (inv_iff State.reset).mpr ⟨?_, sessionFits_other ?_ ?_, ⟨rfl, ?_⟩, ⟨rfl, rfl⟩, ?_⟩ <;> decide

/-- The reset input gives every field the invariant reads its reset value (R280). -/
theorem inv_restart (s : State) : EngineInv s.restart := resetHasInvariant

/-- A response alone keeps the invariant (R99). -/
theorem inv_responds {s : State} (h : EngineInv s) (code : BitVec 4) (r0 r1 : Word) :
    EngineInv (respond code r0 r1 s) := by
  obtain ⟨hident, hfits, hsane, -, hlatch⟩ := (inv_iff s).mp h
  exact inv_respond code r0 r1 hident hsane hfits hlatch

/-- A row that is no host command keeps the invariant. -/
theorem RowRun.inv {s t : State} (hrow : RowRun s (.next t)) (h : EngineInv s) : EngineInv t := by
  cases hrow with
  | responds code r0 r1 => exact inv_responds h code r0 r1
  | setsMode bits value => exact inv_rawSetMode h bits value
  | sendsCommand bits opcode => exact inv_rawSendCommand h bits opcode
  | transfersData bits value => exact inv_rawXferData h bits value
  | transfersFastData value => exact inv_rawXferFastData h value
  | transfersInstruction word => exact inv_rawXferInstruction h word

/-- A host command, refused or not, leaves the session its device state asks for (R43 I2 to I4). -/
theorem exec_sessionFits {i : Instr} {c : Byte} {s t : State} (hi : hostOpcode i = some c)
    (hsane : Sane s.bus) (hfits : SessionFits s) (he : exec i s = .next t) :
    Sane t.bus ∧ SessionFits t := by
  obtain ⟨op, argsOk, body, hrun, hchecks, hbody⟩ := exec_session hi hsane hfits
  rw [hrun] at he
  obtain rfl := Host.Outcome.next.inj he
  by_cases ha : Accepted i s
  · rw [hchecks.accept ha]
    exact session_finish c (hbody ha)
  · obtain ⟨k, hk⟩ := hchecks.refused ha body
    rw [hk]
    exact ⟨hsane, hfits⟩

/-- CLEAR_ERROR is accepted in every state and empties the latch (R212, R214). -/
theorem exec_clearError (s : State) :
    exec .clearError s = .next (respond 0#4 0#32 0#32 (clearLatch (s.accepted 0x0E#8))) :=
  congrArg _ ((checks_clearError s).accept ⟨fun _ => rfl, rfl, rfl⟩ _)

/-- The body of a host command that ends OK leaves a valid identity in DebugMode only (R43 I1). -/
theorem BodyOutcome.ident_debugMode {i : Instr} {s u : State} {r : Word × Word}
    (hbody : BodyOutcome i s (.done r u)) (h : s.ident.valid = true → s.dev = .debugMode)
    (hvalid : u.ident.valid = true) : u.dev = .debugMode := by
  obtain ⟨-, -, hdev, hdropped, hkept⟩ := hbody
  cases hpass : passesLatch i with
  | false =>
    by_contra hne
    exact absurd hvalid (by simp [hdropped hpass hne])
  | true =>
    have hsession : i = .nop ∨ i = .clearError := by simpa [passesLatch] using hpass
    obtain rfl | rfl := hsession <;>
      exact hdev.trans (h ((hkept (by decide) hvalid) ▸ hvalid))

/-- Every host command keeps the invariant: refused, ended OK or with an error taken (R212, R250). -/
theorem exec_host_inv {i : Instr} {c : Byte} {s t : State} (hi : hostOpcode i = some c) (h : EngineInv s)
    (he : exec i s = .next t) : EngineInv t := by
  obtain ⟨hident, hfits, hsane, -, hlatch⟩ := (inv_iff s).mp h
  have hsession := exec_sessionFits hi hsane hfits he
  by_cases hclear : i = .clearError
  · subst hclear
    obtain rfl := Host.Outcome.next.inj ((exec_clearError s).symm.trans he)
    exact inv_respond _ _ _ hident hsane hfits
      (show false = true ↔ 1 ≤ (0#4).toNat ∧ (0#4).toNat ≤ 5 by decide)
  obtain ⟨code, -, hend⟩ | ⟨-, r, u, hend, hbody⟩ | ⟨-, e, u, hend, hbody⟩ :=
      exec_ends (s := s) hi <;>
    obtain rfl := Host.Outcome.next.inj (hend.symm.trans he)
  · exact inv_refused code h
  · have hvalid := hbody.ident_debugMode hident
    obtain ⟨-, hkept, -⟩ := hbody
    obtain ⟨hfatal, herr⟩ := hkept hclear
    refine inv_respond _ _ _ hvalid hsession.1 hsession.2 ?_
    rw [hfatal, herr]; exact hlatch
  · obtain ⟨-, -, hdev, -, -, hkept⟩ := hbody
    obtain ⟨-, -, hended⟩ := raised_raise c e u
    obtain ⟨-, -, -, hbusy, hseq⟩ := hended
    refine (inv_iff _).mpr ⟨raise_ident c e u fun hvalid => ?_, hsession.2, hsession.1, ⟨hseq, hbusy⟩,
      raise_latch c e u⟩
    exact hdev.trans (hident (hkept hvalid ▸ hvalid))

/-- Every instruction keeps the invariant. -/
theorem exec_inv {i : Instr} {s t : State} (h : EngineInv s) (he : exec i s = .next t) : EngineInv t := by
  cases hi : hostOpcode i with
  | none => exact RowRun.inv (he ▸ exec_row s hi) h
  | some c => exact exec_host_inv hi h he

/-- Settles O52, by the ways in which a step answers a next state. -/
theorem stepKeepsInvariant : Obligations.StepKeepsInvariant := by
  intro s t h hstep
  have hserved : EngineInv s.served := h
  cases stepServes_of_step hstep with
  | idle | ignored | wrote => exact hserved
  | restarted => exact inv_restart s.served
  | executed i _ he => exact exec_inv hserved he

/-- Every state of a run has the invariant: neither the catalog nor what the environment lays out is in it. -/
theorem Reachable.inv {s : State} (h : Reachable s) : EngineInv s := by
  induction h with
  | reset catalog _ => exact resetHasInvariant
  | environment s tdoIn requests _ ih => exact ih
  | step s t _ hstep ih => exact stepKeepsInvariant s t ih hstep

/-- Settles O53: R43 is the first half of the invariant. -/
theorem reachableStatesKeepR43 : Obligations.ReachableStatesKeepR43 := fun _ h => h.inv.1

end Sys2Proof.Machine
end

section
/-! How a host command ends, seen from the host (R99, R171, R212, R240): its response code, the operands, the
device state and the identity. Each is read off the three ends of `exec_ends`. -/

namespace Sys2Proof.Machine

/-- An error taken leaves the operands, the requests and the catalog (R32, R250). -/
theorem operandsKept_raise (c : Byte) (e : RaiseInfo) (s : State) : OperandsKept s (raise c e s) :=
  ⟨raise_arg0 c e s, raise_arg1 c e s, raise_arg2 c e s, raise_requests c e s, raise_catalog c e s⟩

theorem OperandsKept.trans {s t u : State} (h : OperandsKept s t) (h' : OperandsKept t u) :
    OperandsKept s u := by
  obtain ⟨h0, h1, h2, hr, hc⟩ := h
  obtain ⟨h0', h1', h2', hr', hc'⟩ := h'
  exact ⟨h0'.trans h0, h1'.trans h1, h2'.trans h2, hr'.trans hr, hc'.trans hc⟩

/-- An error taken is reported with its own code (R250). -/
theorem raise_rsp_toNat (c : Byte) (e : RaiseInfo) (s : State) :
    (raise c e s).rsp.toNat = e.kind.toCode.toNat := by
  obtain ⟨-, -, hrsp, -⟩ := raised_raise c e s
  rw [hrsp]; cases e.kind <;> rfl

/-- An error taken leaves an identity valid only as it was (R38, R250). -/
theorem raise_ident_of_valid {c : Byte} {e : RaiseInfo} {s : State}
    (hvalid : (raise c e s).ident.valid = true) : (raise c e s).ident = s.ident := by
  cases hdrops : dropsDev e.kind with
  | true =>
    rw [(raise_dropped c e s hdrops).2] at hvalid
    exact Bool.noConfusion hvalid
  | false => exact (raise_kept c e s hdrops).2

/-- Settles O47: a refusal and an OK end write their code themselves, an error taken the code of its kind. -/
theorem everyCommandEnds : Obligations.EveryCommandEnds := by
  intro i c s hi
  obtain ⟨code, hcode, hend⟩ | ⟨-, r, u, hend, hbody⟩ | ⟨-, e, u, hend, hbody⟩ :=
      exec_ends (s := s) hi <;>
    refine ⟨_, hend, ?_⟩
  · have hmem : code.toNat ∈ [0, 1, 2, 3, 4, 5, 8, 9, 10] := by obtain rfl | rfl | rfl := hcode <;> decide
    exact ⟨rfl, rfl, hmem, rfl, rfl, rfl, rfl, rfl⟩
  · exact ⟨rfl, rfl, List.mem_cons_self, hbody.1⟩
  · obtain ⟨-, -, -, -, -, hbusy, hseq⟩ := raised_raise c e u
    refine ⟨hbusy, hseq, ?_, hbody.1.trans (operandsKept_raise c e u)⟩
    rw [raise_rsp_toNat]; cases e.kind <;> decide

/-- Settles O49: a refusal changes neither, an OK end is what `BodyOutcome` says, and an error taken keeps the
identity of the body or drops it. -/
theorem deviceStateTransitions : Obligations.DeviceStateTransitions := by
  intro i c s t hi he
  obtain ⟨code, hcode, hend⟩ | ⟨ha, r, u, hend, hbody⟩ | ⟨-, e, u, hend, hbody⟩ :=
      exec_ends (s := s) hi <;>
    obtain rfl := Host.Outcome.next.inj (hend.symm.trans he)
  · have hne : code ≠ 0#32 := by obtain rfl | rfl | rfl := hcode <;> decide
    exact ⟨fun h0 => absurd h0 hne, fun h0 => absurd h0 hne, fun _ _ => rfl, fun _ => ⟨rfl, rfl⟩⟩
  · obtain ⟨-, -, hdev, hdropped, hkept⟩ := hbody
    exact ⟨fun _ => ⟨ha, hdev⟩, fun _ => hdropped, fun hvalid hne => hkept hne hvalid,
      fun h8 => absurd h8 (Nat.not_succ_le_zero 7)⟩
  · obtain ⟨-, -, -, -, hkept, -⟩ := hbody
    obtain ⟨hpos, hle⟩ := errorCode_range e.kind
    rw [← raise_rsp_toNat c e u] at hpos hle
    have hne : (raise c e u).rsp ≠ 0#32 := fun h0 => by rw [h0] at hpos; exact absurd hpos (by decide)
    exact ⟨fun h0 => absurd h0 hne, fun h0 => absurd h0 hne,
      fun hvalid hi => (raise_ident_of_valid hvalid).trans (hkept hi), fun h8 => by omega⟩

end Sys2Proof.Machine
end

section
/-! What a step does to the trace (R22, R251, R281): events are appended only, and of a few kinds unless the
reset input was served. -/

namespace Sys2Proof.Machine

/-- The events of pulses, edges of the reset line and delays: no line is configured, TDO is not driven, and a
Sleep takes time (R22, R256). -/
def WireEvent (e : Event) : Prop :=
  (∀ line dir, e ≠ .config line dir) ∧ (∀ level, e ≠ .drive .tdo level) ∧ e ≠ .sleep 0

/-- The trace of a session is an earlier trace with such events after it. -/
def TraceExtends (trace : List Event) (b : TapSession) : Prop :=
  ∃ es, b.trace = trace ++ es ∧ ∀ e ∈ es, WireEvent e

theorem TraceExtends.refl (b : TapSession) : TraceExtends b.trace b := ⟨[], by simp, by simp⟩

theorem TraceExtends.append {trace : List Event} {b b' : TapSession} {es : List Event}
    (h : TraceExtends trace b) (htrace : b'.trace = b.trace ++ es) (hes : ∀ e ∈ es, WireEvent e) :
    TraceExtends trace b' := by
  obtain ⟨before, hbefore, hwire⟩ := h
  refine ⟨before ++ es, by rw [htrace, hbefore, List.append_assoc], fun e he => ?_⟩
  exact (List.mem_append.mp he).elim (hwire e) (hes e)

theorem wireEvent_of_mem_pulseEvents {p : Pulse} {sample : Bool} {e : Event}
    (he : e ∈ pulseEvents p sample) : WireEvent e := by
  simp only [pulseEvents, List.mem_cons, List.not_mem_nil, or_false] at he
  obtain rfl | rfl | rfl | rfl | rfl := he <;> simp [WireEvent]

/-- Every pulse, edge of the reset line and Sleep extends the trace. -/
theorem pulseClosed_traceExtends (trace : List Event) : PulseClosed (TraceExtends trace) where
  pulse := fun tms tdi b h => h.append (bitXfer_trace tms tdi b) fun _ => wireEvent_of_mem_pulseEvents
  shift := fun _ _ h => h
  select := fun _ _ _ h => h
  sleep := fun ms b hms h => h.append (emit_trace b _) fun e he => by
    obtain rfl := List.mem_singleton.mp he
    simp [WireEvent, hms]
  rst := fun a b h => h.append (es := [.drive .rst (!a)]) (emit_trace b _) fun e he => by
    obtain rfl := List.mem_singleton.mp he
    simp [WireEvent]

/-- No step writes the catalog (R40). -/
theorem step_catalog {s t : State} (hstep : step s = .next t) : t.catalog = s.catalog := by
  cases stepServes_of_step hstep with
  | idle | ignored | restarted | wrote => rfl
  | executed i _ he => exact (exec_catalog he : t.catalog = s.served.catalog)

/-- Unless the reset input was served, a step extends the trace. -/
theorem step_traceExtends {s t : State} (hstep : step s = .next t)
    (hreset : s.requests.head? ≠ some .reset) : TraceExtends s.trace t.bus := by
  have hserved : TraceExtends s.trace s.served.bus := .refl s.bus
  cases stepServes_of_step hstep with
  | idle | ignored | wrote => exact hserved
  | restarted h => exact absurd h hreset
  | executed i _ he => exact exec_closed (pulseClosed_traceExtends s.trace) hserved he

/-- Settles O58: the reset input appends the nine events of R281, any other request wire events. -/
theorem traceOnlyGrows : Obligations.TraceOnlyGrows := by
  intro s t hstep
  refine ⟨step_catalog hstep, ?_⟩
  by_cases hreset : s.requests.head? = some .reset
  · obtain ⟨rest, hrequests⟩ := List.head?_eq_some_iff.mp hreset
    obtain rfl := Host.Outcome.next.inj ((step_reset hrequests).symm.trans hstep)
    exact ⟨State.reset.trace, restart_trace s.served, fun h => absurd hreset h⟩
  · obtain ⟨es, htrace, hes⟩ := step_traceExtends hstep hreset
    exact ⟨es, htrace, fun _ => hes⟩

end Sys2Proof.Machine
end

section
/-! Identification over any catalog (R40, R83, R210), by the lemmas about the scan that IDENTIFY rests on. -/

namespace Sys2Proof.Machine

/-- Settles O60: the scan's equivalence, and Identify over either of its answers. -/
theorem catalogFirstMatchWins : Obligations.CatalogFirstMatchWins := by
  refine ⟨fun _ _ _ _ => scanCatalog_eq_some_iff, fun catalog s e he hd => ?_⟩
  obtain ⟨b, poll, step, hrun, -⟩ := identifyIn_serviced catalog s e he hd
  constructor
  · intro i r hscan
    obtain ⟨-, hid, -⟩ := scanCatalog_eq_some_iff.mp hscan
    rw [hscan] at hrun
    refine ⟨_, hrun, ?_⟩
    rw [hid]; rfl
  · intro hscan
    rw [hscan] at hrun
    exact ⟨_, hrun, rfl⟩

end Sys2Proof.Machine
end

section
/-! The host's register file (R38, R39, R45, R46): what a read of each offset returns, and the fields of
H_STATUS. -/

namespace Sys2Proof.Machine

/-! ### The offsets that hold a register -/

/-- The offsets of H_ARG0 to H_IRBITS (R45). -/
def engineOffsets : List Word :=
  [0x04#32, 0x08#32, 0x0C#32, 0x10#32, 0x14#32, 0x18#32, 0x1C#32, 0x20#32, 0x24#32, 0x28#32, 0x2C#32,
   0x30#32, 0x34#32, 0x38#32]

/-- The offsets of the identity registers (R45). -/
def identOffsets : List Word :=
  [0x40#32, 0x44#32, 0x48#32, 0x4C#32, 0x50#32, 0x54#32, 0x58#32, 0x5C#32, 0x60#32, 0x64#32, 0x68#32,
   0x6C#32, 0x70#32]

/-- Beside the engine's registers a read is one of the identity registers, or 0 (R38). -/
theorem hostRead_of_not_engine {offset : Word} (h : offset ∉ engineOffsets) (s : State) :
    hostRead s offset = if s.ident.valid then identRegister s.ident offset else 0#32 := by
  simp only [engineOffsets, List.mem_cons, List.not_mem_nil, or_false, not_or] at h
  simp [hostRead, h]

theorem identRegister_unlisted {offset : Word} (h : offset ∉ identOffsets) (d : Ident) :
    identRegister d offset = 0#32 := by
  simp only [identOffsets, List.mem_cons, List.not_mem_nil, or_false, not_or] at h
  simp [identRegister, h]

/-- An offset that R45 does not list reads 0. -/
theorem hostRead_unlisted {offset : Word} (h : offset ∉ engineOffsets ++ identOffsets) (s : State) :
    hostRead s offset = 0#32 := by
  rw [List.mem_append, not_or] at h
  obtain ⟨hengine, hident⟩ := h
  rw [hostRead_of_not_engine hengine, identRegister_unlisted hident, ite_self]

/-- While the identity is invalid every offset above the engine's registers reads 0 (R38). -/
theorem hostRead_ident_invalid {s : State} (hvalid : s.ident.valid = false) {offset : Word}
    (h : offset ∉ engineOffsets) : hostRead s offset = 0#32 := by
  rw [hostRead_of_not_engine h, hvalid]; rfl

theorem hostRead_ident_valid {s : State} (hvalid : s.ident.valid = true) {offset : Word}
    (h : offset ∉ engineOffsets) : hostRead s offset = identRegister s.ident offset := by
  rw [hostRead_of_not_engine h, if_pos hvalid]

/-! ### The packed registers -/

/-- H_ERR is the opcode above the code (R45). -/
theorem hErr_eq (s : State) : hErr s = s.err.op.setWidth 32 <<< 8 ||| s.err.code.setWidth 32 := by
  apply BitVec.eq_of_getLsbD_eq
  intro i hi
  simp only [hErr, BitVec.getLsbD_append, BitVec.getLsbD_or, BitVec.getLsbD_shiftLeft,
    BitVec.getLsbD_setWidth]
  grind

/-- The marker bit 8 stands above the six bits of the width (R45). -/
theorem irBits_eq (bits : BitVec 6) :
    (0#23 ++ 1#1 ++ 0#2 ++ bits : Word) = 0x100#32 ||| bits.setWidth 32 := by
  revert bits; decide

theorem rowWords_toNat (d : Ident) : (d.rowWords.setWidth 32).toNat = d.rowWords.toNat :=
  BitVec.toNat_setWidth_of_le (by decide)

/-- Four bytes of the name, the first in the low byte (R45). -/
theorem nameWord_eq (name : Vector Byte 12) {i : Nat} (h : i + 3 < 12) :
    nameWord name i = name[i + 3] ++ name[i + 2] ++ name[i + 1] ++ name[i] := by
  have hbyte : ∀ j (hj : j < 12), name.toList.getD j 0#8 = name[j] := by
    intro j hj
    simp [List.getD_eq_getElem?_getD, hj]
  rw [nameWord, hbyte _ h, hbyte (i + 2) (by omega), hbyte (i + 1) (by omega), hbyte i (by omega)]

/-- Settles O4: a listed offset by the register there, any other by `hostRead_unlisted`. -/
theorem hostReadsRegisterFile : Obligations.HostReadsRegisterFile := by
  intro s
  have habove : ∀ offset ∈ engineOffsets, offset ≤ 0x38#32 := List.all_iff_forall_prop.mp (by decide)
  have hlast : ∀ offset ∈ engineOffsets ++ identOffsets, offset ≤ 0x70#32 :=
    List.all_iff_forall_prop.mp (by decide)
  have haligned : ∀ offset ∈ engineOffsets ++ identOffsets, offset &&& 3#32 = 0#32 :=
    List.all_iff_forall_prop.mp (by decide)
  refine ⟨hostRead_unlisted (by decide) s, rfl, rfl, rfl, rfl, rfl, rfl, hErr_eq s, rfl, rfl, rfl, rfl,
    fun hir => ?_, fun r hir => ?_, fun hinvalid offset hlow _ => ?_, fun hvalid => ?_,
    hostRead_unlisted (by decide) s, fun offset hhigh => ?_, fun offset hunaligned => ?_⟩
  · show hIr s = 0#32 ∧ hIrBits s = 0#32
    rw [hIr, hIrBits, hir]
    exact ⟨rfl, rfl⟩
  · show hIr s = r.opcode ∧ hIrBits s = 0x100#32 ||| r.bits.setWidth 32
    rw [hIr, hIrBits, hir]
    exact ⟨rfl, irBits_eq r.bits⟩
  · refine hostRead_ident_invalid hinvalid fun hmem => ?_
    have := habove offset hmem
    bv_omega
  · have hread : ∀ offset ∉ engineOffsets, hostRead s offset = identRegister s.ident offset :=
      fun _ => hostRead_ident_valid hvalid
    rw [hread 0x40#32 (by decide), hread 0x44#32 (by decide), hread 0x48#32 (by decide),
      hread 0x4C#32 (by decide), hread 0x50#32 (by decide), hread 0x54#32 (by decide),
      hread 0x58#32 (by decide), hread 0x5C#32 (by decide), hread 0x60#32 (by decide),
      hread 0x64#32 (by decide), hread 0x68#32 (by decide), hread 0x6C#32 (by decide),
      hread 0x70#32 (by decide)]
    exact ⟨rfl, rowWords_toNat s.ident, pageBytes_toNat s.ident, bfmBytes_toNat s.ident,
      pfmBytes_toNat s.ident, rfl, pfmLast_toNat s.ident, rfl, bfmLast_toNat s.ident,
      cfgFirst_toNat s.ident, nameWord_eq s.ident.name (by decide),
      nameWord_eq s.ident.name (i := 4) (by decide), nameWord_eq s.ident.name (i := 8) (by decide)⟩
  · refine hostRead_unlisted (fun hmem => ?_) s
    have := hlast offset hmem
    bv_omega
  · exact hostRead_unlisted (fun hmem => hunaligned (haligned offset hmem)) s

/-! ### H_STATUS -/

theorem getLsbD_flagBit (b : Bool) : (flagBit b).getLsbD 0 = b := by cases b <;> rfl

/-- The fields of H_STATUS of more than one bit (R46): the fields below are dropped, then those above. -/
theorem hStatus_fields (s : State) :
    (hStatus s).extractLsb' 2 2 = devCode s.dev ∧
    (hStatus s).extractLsb' 4 2 = tapSelCode s.bus.tapSel ∧
    (hStatus s).extractLsb' 13 3 = 0#3 ∧
    (hStatus s).extractLsb' 16 5 = tapCode s.bus.tap ∧
    (hStatus s).extractLsb' 21 3 = s.bus.ones ∧
    (hStatus s).extractLsb' 24 8 = 0#8 := by
  unfold hStatus
  simp (disch := decide) only [BitVec.extractLsb'_append_eq_of_le, BitVec.extractLsb'_append_eq_of_add_le]
  exact ⟨BitVec.extractLsb'_eq_self, BitVec.extractLsb'_eq_self, BitVec.extractLsb'_eq_self,
    BitVec.extractLsb'_eq_self, BitVec.extractLsb'_eq_self, BitVec.extractLsb'_eq_self⟩

/-- Settles O5: the single bits by the concatenation, the coded fields by `hStatus_fields`. -/
theorem statusRegisterPacksState : Obligations.StatusRegisterPacksState := by
  intro s
  rw [show hostRead s 0x10#32 = hStatus s from rfl]
  obtain ⟨hdev, hsel, hzeros, htap, hones, htop⟩ := hStatus_fields s
  refine ⟨?busy, ?fatal, fun p hp h => ?dev, fun p hp h => ?tapSel, ?valid, ?pracc, ?tdoLast, ?rst, ?tck,
    ?tms, ?tdi, hzeros, fun p hp h => ?tap, hones, htop⟩
  case busy | fatal | valid | pracc | tdoLast | rst | tck | tms | tdi =>
    simp only [hStatus, BitVec.getLsbD_append]
    exact getLsbD_flagBit _
  case dev => rw [hdev, h]; clear h; revert p; decide
  case tapSel => rw [hsel, h]; clear h; revert p; decide
  case tap => rw [htap, h]; clear h; revert p; decide

end Sys2Proof.Machine
end

section
/-! The shadow TAP under single pulses (R26 to R29). -/

namespace Sys2Proof.Machine

theorem nextOnes_true_toNat (ones : BitVec 3) : (nextOnes ones true).toNat = min (ones.toNat + 1) 5 := by
  simp only [nextOnes, if_true, BitVec.toNat_ofNat]
  omega

/-- The fifth high pulse in a row resets the shadow from every state (R26). -/
theorem shadowTap_fifth_high {ones : BitVec 3} (h : 5 ≤ ones.toNat + 1) (tap : TapState) :
    shadowTap tap ones true = .testLogicReset := by
  have h5 : nextOnes ones true = 5#3 := by
    apply BitVec.eq_of_toNat_eq
    rw [nextOnes_true_toNat]
    exact Nat.min_eq_right h
  rw [shadowTap, if_pos h5]

/-- Before the fifth a high pulse follows the graph (R26). -/
theorem shadowTap_high {ones : BitVec 3} (h : ones.toNat + 1 < 5) (tap : TapState) :
    shadowTap tap ones true = nextTap tap true := by
  have h5 : nextOnes ones true ≠ 5#3 := by
    intro h'
    have := congrArg BitVec.toNat h'
    rw [nextOnes_true_toNat, BitVec.toNat_ofNat] at this
    omega
  rw [shadowTap, if_neg h5]

/-- High pulses in a row are counted up to five (R27). -/
theorem repeat_high_ones (tdi : Bool) (b : TapSession) {n : Nat} (hn : 1 ≤ n) :
    (Nat.repeat (bitXfer true tdi) n b).ones.toNat = min (b.ones.toNat + n) 5 := by
  induction n, hn using Nat.le_induction with
  | base => exact nextOnes_true_toNat b.ones
  | succ n _ ih =>
    rw [Nat.repeat, bitXfer_ones, nextOnes_true_toNat, ih]
    omega

/-- Five or more high pulses in a row reach Test-Logic-Reset from every session (R137). -/
theorem repeat_high_reset (tdi : Bool) (b : TapSession) {n : Nat} (hn : 5 ≤ n) :
    (Nat.repeat (bitXfer true tdi) n b).tap = .testLogicReset ∧
    (Nat.repeat (bitXfer true tdi) n b).ones = 5#3 := by
  constructor
  · obtain ⟨m, rfl⟩ : ∃ m, n = m + 1 := ⟨n - 1, by omega⟩
    rw [Nat.repeat, bitXfer_tap]
    refine shadowTap_fifth_high ?_ _
    rw [repeat_high_ones tdi b (by omega)]
    omega
  · apply BitVec.eq_of_toNat_eq
    rw [repeat_high_ones tdi b (by omega), BitVec.toNat_ofNat]
    omega

/-- A pulse drops the selection when it reaches Test-Logic-Reset, and else keeps it (R28, R29). -/
theorem bitXfer_selection (tms tdi : Bool) (b : TapSession) :
    ((bitXfer tms tdi b).tap = .testLogicReset →
      (bitXfer tms tdi b).irSel = none ∧ (bitXfer tms tdi b).tapSel = .unknownSel) ∧
    ((bitXfer tms tdi b).tap ≠ .testLogicReset →
      (bitXfer tms tdi b).irSel = b.irSel ∧ (bitXfer tms tdi b).tapSel = b.tapSel) := by
  rw [bitXfer_tap, bitXfer_irSel, bitXfer_tapSel]
  exact ⟨fun h => ⟨if_pos h, if_pos h⟩, fun h => ⟨if_neg h, if_neg h⟩⟩

/-- Settles O57: low pulses by `shadowTap_false`, high ones by `shadowTap_high` and `shadowTap_fifth_high`. -/
theorem shadowTapGraph : Obligations.ShadowTapGraph := by
  intro b tdi
  refine ⟨rfl, nextOnes_true_toNat b.ones, fun p hp htap => ?_, fun htap => ?_,
    fun h => shadowTap_fifth_high h _, fun tms => bitXfer_selection tms tdi b,
    fun n hn _ => repeat_high_reset tdi b hn⟩
  · have hrow : nextTap p.1 false = p.2.1 ∧ nextTap p.1 true = p.2.2 := by
      clear htap; revert p; decide
    rw [bitXfer_tap, bitXfer_tap, htap, shadowTap_false, ← hrow.1, ← hrow.2]
    exact ⟨rfl, fun h => shadowTap_high h _⟩
  · rw [bitXfer_tap, bitXfer_tap, htap, shadowTap_false]
    exact ⟨rfl, fun h => shadowTap_high h _⟩

end Sys2Proof.Machine
end

section
/-! The operand check (R212 step 4) and READ_WORD (R182, R183, R222). -/

namespace Sys2Proof.Machine

/-- Settles O46: every host command is the dispatcher over its own checks, and `Checks.badArgument` says how
the dispatcher answers when the operand check is the first to fail. -/
theorem badArgumentRefuses : Obligations.BadArgumentRefuses := by
  intro i c s hi hlatch hallowed hoperands
  obtain ⟨op, argsOk, body, hexec, hchecks⟩ := exec_command s i c hi
  rw [hexec, hchecks.badArgument hlatch hallowed hoperands]

/-- ReadFlashData (R183) whose words are all serviced and whose second fast-data scan shows the handshake
bit (R182). -/
theorem readFlashData_confirmed (addr : Word) {s : State} {e : Nat}
    (he : injectionsEnd s.bus 5 0 = some e) (hd : drainPracc s.bus e = true) :
    ∃ b poll step,
      readFlashData addr s = .done (drainWord s.bus e)
        (s.wired b poll { value := drainWord s.bus e, pracc := true } (s.injCount + 5#32) step) ∧
      Scanned s.bus b (injectionsActions s.bus 0 (rdWords addr) ++ drainActions) s.bus.pins.rst
        (ir5 0x0E#32) s.bus.tapSel := by
  obtain ⟨b, poll, step, hrun, -, -, hb⟩ := readFlashData_serviced addr s e he
  rw [if_pos hd] at hrun
  exact ⟨b, poll, step, hrun, hb⟩

/-- An accepted READ_WORD is ReadFlashData of ARG0, ended (R212, R222). -/
theorem exec_readWord_accepted {s : State} (ha : Accepted .readWord s) :
    exec .readWord s = .next (finish 0x08#8
      ((readFlashData s.arg0 (s.accepted 0x08#8)).andThen fun w t => .done (w, 0#32) t)) :=
  congrArg _ ((checks_readWord s).accept ha _)

/-- Settles O20: the read ends with the word, and the dispatcher responds OK with it. -/
theorem readWordCompletes : Obligations.ReadWordCompletes := by
  intro s e ha he hd
  obtain ⟨b, poll, step, hrun, hb⟩ :=
    readFlashData_confirmed s.arg0 (s := s.accepted 0x08#8) he hd
  have hexec := exec_readWord_accepted ha
  rw [hrun] at hexec
  exact ⟨_, hexec, okEnd_wired, ⟨rfl, rfl⟩, rfl, hb.didScans, hb.idle⟩

end Sys2Proof.Machine
end

section
/-! The decoder and the encoder are inverse to each other in every format (R90 to R113): what decodes back
from an encoding, and that whatever decodes is the encoding of what it decodes to. -/

namespace Sys2Proof

open Laws

/-! ### Decoding what the encoder writes -/

/-- Every instruction decodes back. -/
theorem decodesBack_statement : ∀ i : Instr, DecodesBack.Statement i
  | .nop => DecodesBack.nop
  | .waitReady => DecodesBack.waitReady
  | .enterPgmMode => DecodesBack.enterPgmMode
  | .exitPgmMode => DecodesBack.exitPgmMode
  | .eraseAll => DecodesBack.eraseAll
  | .assertTargetReset => DecodesBack.assertTargetReset
  | .identify => DecodesBack.identify
  | .programWord => DecodesBack.programWord
  | .readWord => DecodesBack.readWord
  | .verifyWord => DecodesBack.verifyWord
  | .downloadData => DecodesBack.downloadData
  | .flashOperation => DecodesBack.flashOperation
  | .clearError => DecodesBack.clearError
  | .rawSetMode => DecodesBack.rawSetMode
  | .rawSendCommand => DecodesBack.rawSendCommand
  | .rawXferData => DecodesBack.rawXferData
  | .rawXferFastData => DecodesBack.rawXferFastData
  | .rawXferInstruction => DecodesBack.rawXferInstruction
  | .reserved0C low => DecodesBack.reserved0C low
  | .reserved0F => DecodesBack.reserved0F
  | .reserved15 => DecodesBack.reserved15
  | .reserved16 low => DecodesBack.reserved16 low
  | .reserved18 low => DecodesBack.reserved18 low
  | .reserved20 low => DecodesBack.reserved20 low
  | .reserved40 low => DecodesBack.reserved40 low
  | .reserved80 low => DecodesBack.reserved80 low
  | .setMode6TapReset => DecodesBack.setMode6TapReset
  | .sendCommand5 opcode => DecodesBack.sendCommand5 opcode
  | .xferData8 value => DecodesBack.xferData8 value
  | .xferData32 value => DecodesBack.xferData32 value
  | .xferFastData value => DecodesBack.xferFastData value
  | .mtapSwMtap => DecodesBack.mtapSwMtap
  | .mtapSwEtap => DecodesBack.mtapSwEtap
  | .mtapCommand => DecodesBack.mtapCommand
  | .etapData => DecodesBack.etapData
  | .etapControl => DecodesBack.etapControl
  | .etapEjtagboot => DecodesBack.etapEjtagboot
  | .etapFastdata => DecodesBack.etapFastdata
  | .mchpStatus => DecodesBack.mchpStatus
  | .mchpErase => DecodesBack.mchpErase
  | .ctrlResume => DecodesBack.ctrlResume
  | .ctrlProceed => DecodesBack.ctrlProceed
  | .lui rt imm => DecodesBack.lui rt imm
  | .ori rt rs imm => DecodesBack.ori rt rs imm
  | .andi rt rs imm => DecodesBack.andi rt rs imm
  | .sw rt imm rs => DecodesBack.sw rt imm rs
  | .lw rt imm rs => DecodesBack.lw rt imm rs
  | .bne rs rt imm => DecodesBack.bne rs rt imm
  | .mipsNop => DecodesBack.mipsNop
  | .preP0 => DecodesBack.preP0
  | .preP1 => DecodesBack.preP1
  | .dlD0 => DecodesBack.dlD0
  | .dlD1 hole => DecodesBack.dlD1 hole
  | .dlD2 hole => DecodesBack.dlD2 hole
  | .dlD3 hole => DecodesBack.dlD3 hole
  | .dlD4 => DecodesBack.dlD4
  | .foF0 => DecodesBack.foF0
  | .foF1 => DecodesBack.foF1
  | .foF2 hole => DecodesBack.foF2 hole
  | .foF3 hole => DecodesBack.foF3 hole
  | .foF4 => DecodesBack.foF4
  | .foF5 hole => DecodesBack.foF5 hole
  | .foF6 => DecodesBack.foF6
  | .foF7 op => DecodesBack.foF7 op
  | .foF8 => DecodesBack.foF8
  | .foF9 => DecodesBack.foF9
  | .foF10 => DecodesBack.foF10
  | .foF11 => DecodesBack.foF11
  | .foF12 => DecodesBack.foF12
  | .foF13 => DecodesBack.foF13
  | .foF14 => DecodesBack.foF14
  | .foF15 => DecodesBack.foF15
  | .foF16 => DecodesBack.foF16
  | .foF17 => DecodesBack.foF17
  | .foF18 => DecodesBack.foF18
  | .foF19 => DecodesBack.foF19
  | .foF20 => DecodesBack.foF20
  | .foF21 => DecodesBack.foF21
  | .foF22 => DecodesBack.foF22
  | .foF23 => DecodesBack.foF23
  | .foF24 => DecodesBack.foF24
  | .foF25 => DecodesBack.foF25
  | .foF26 => DecodesBack.foF26
  | .foF27 => DecodesBack.foF27
  | .foF28 => DecodesBack.foF28
  | .foF29 => DecodesBack.foF29
  | .rdA0 => DecodesBack.rdA0
  | .rdA1 hole => DecodesBack.rdA1 hole
  | .rdA2 hole => DecodesBack.rdA2 hole
  | .rdA3 => DecodesBack.rdA3
  | .rdA4 => DecodesBack.rdA4
  | .rspOk => DecodesBack.rspOk
  | .rspBusTimeout => DecodesBack.rspBusTimeout
  | .rspProtocolFraming => DecodesBack.rspProtocolFraming
  | .rspNvmControllerError => DecodesBack.rspNvmControllerError
  | .rspDeviceUnidentified => DecodesBack.rspDeviceUnidentified
  | .rspVerifyMismatch => DecodesBack.rspVerifyMismatch
  | .rspIllegalState => DecodesBack.rspIllegalState
  | .rspBadArgument => DecodesBack.rspBadArgument
  | .rspSessionFatal => DecodesBack.rspSessionFatal
  | .rspUnknownOpcode => DecodesBack.rspUnknownOpcode

/-- Settles O7: the round trip of each row's word, whatever bytes follow. -/
theorem decodeEncodeAgree : Obligations.DecodeEncodeAgree := decodesBack_statement

/-! ### Words put together from their fields -/

/-- A word with no bit outside a field is that field in its place (R93 to R95). -/
theorem field_of_masked {w mask : BitVec 40} {k n : Nat}
    (hmask : ∀ j < 40, j < k ∨ k + n ≤ j → mask.getLsbD j = true) (h : w &&& mask = 0#40) :
    (w.extractLsb' k n).setWidth 40 <<< k = w := by
  apply BitVec.eq_of_getLsbD_eq
  intro j hj
  simp only [BitVec.getLsbD_shiftLeft, BitVec.getLsbD_setWidth, BitVec.getLsbD_extractLsb']
  by_cases hin : k ≤ j ∧ j < k + n
  · obtain ⟨hk, hn⟩ := hin
    simp [hj, hk, show j - k < 40 by omega, show j - k < n by omega]
  · have hzero := congrArg (BitVec.getLsbD · j) h
    simp only [BitVec.getLsbD_and, hmask j hj (by omega), Bool.and_true, BitVec.getLsbD_zero] at hzero
    rw [hzero]
    by_cases hk : k ≤ j
    · simp [show ¬ j - k < n by omega]
    · simp [show j < k by omega]

theorem getLsbD_of_lt_32 {w : BitVec 40} (hlt : w.toNat < 2 ^ 32) {j : Nat} (hj : 32 ≤ j) :
    w.getLsbD j = false :=
  Nat.testBit_lt_two_pow (hlt.trans_le (Nat.pow_le_pow_right (by decide) hj))

/-- A word of 32 bits is what a mask keeps of it combined with the low bits the mask cuts off (R106). -/
theorem filled_of_masked {w mask : BitVec 40} {n : Nat} (hlt : w.toNat < 2 ^ 32)
    (hmask : ∀ j < 32, n ≤ j → mask.getLsbD j = true) :
    (w &&& mask) ||| (w.extractLsb' 0 n).setWidth 40 = w := by
  apply BitVec.eq_of_getLsbD_eq
  intro j hj
  simp only [BitVec.getLsbD_or, BitVec.getLsbD_and, BitVec.getLsbD_setWidth, BitVec.getLsbD_extractLsb',
    Nat.zero_add, hj]
  by_cases hlow : j < n
  · cases hw : w.getLsbD j <;> simp [hlow]
  · by_cases hhigh : j < 32
    · simp [hlow, hmask j hhigh (by omega)]
    · simp [getLsbD_of_lt_32 hlt (show 32 ≤ j by omega)]

/-- A word of 32 bits is the I-type word of its own major opcode and fields (R105). -/
theorem itypeWord_fields {w : BitVec 40} (hlt : w.toNat < 2 ^ 32) :
    itypeWord ((w.extractLsb' 26 6).setWidth 40 <<< 26) (rsField w) (rtField w) (immField w) = w := by
  apply BitVec.eq_of_getLsbD_eq
  intro j hj
  simp only [getLsbD_itypeWord, rsField, rtField, immField, BitVec.getLsbD_shiftLeft,
    BitVec.getLsbD_setWidth, BitVec.getLsbD_extractLsb', Nat.zero_add, hj]
  rcases Nat.lt_or_ge j 16 with h16 | h16
  · simp [h16, show j < 26 by omega, show j < 21 by omega]
  rcases Nat.lt_or_ge j 21 with h21 | h21
  · simp [h21, show ¬ j < 16 by omega, show j < 26 by omega, show j - 16 < 5 by omega,
      show j - 16 < 40 by omega, show 16 + (j - 16) = j by omega]
  rcases Nat.lt_or_ge j 26 with h26 | h26
  · simp [h26, show ¬ j < 16 by omega, show ¬ j < 21 by omega, show ¬ j - 16 < 5 by omega,
      show j - 21 < 5 by omega, show j - 21 < 40 by omega, show 21 + (j - 21) = j by omega]
  · simp only [show ¬ j < 16 by omega, show ¬ j < 21 by omega, show ¬ j < 26 by omega,
      show ¬ j - 16 < 5 by omega, show ¬ j - 21 < 5 by omega, show j - 26 < 40 by omega,
      show 26 + (j - 26) = j by omega]
    by_cases h32 : j < 32
    · simp [show j - 26 < 6 by omega]
    · simp [getLsbD_of_lt_32 hlt (show 32 ≤ j by omega)]

/-! ### What a word that has a row is -/

/-- The word is that of the instruction in the format. -/
def IsWordOf (format : Format) (w : BitVec 40) (i : Instr) : Prop := formatOf i = format ∧ code i = w

section rows
variable {format : Format} {w : BitVec 40} {i : Instr}

/-- A row of a table keyed by the number of the word. -/
theorem isWordOf_of_toNat {j : Instr} {n : Nat} (hn : w.toNat = n) (h : some j = some i)
    (hformat : formatOf j = format) (hcode : (code j).toNat = n) : IsWordOf format w i := by
  obtain rfl := Option.some.inj h
  exact ⟨hformat, BitVec.eq_of_toNat_eq (hcode.trans hn.symm)⟩

/-- A row of a table keyed by the word. -/
theorem isWordOf_of_ite {word : BitVec 40} {j : Instr} (h : (if w = word then some j else none) = some i)
    (hformat : formatOf j = format) (hcode : code j = word) : IsWordOf format w i := by
  obtain ⟨hw, hj⟩ := Option.ite_none_right_eq_some.mp h
  obtain rfl := Option.some.inj hj
  exact ⟨hformat, hcode.trans hw.symm⟩

theorem fixedWord_isWordOf {word : BitVec 40} {j : Instr} (h : fixedWord w word j = some i)
    (hformat : formatOf j = format) (hcode : code j = word) : IsWordOf format w i :=
  isWordOf_of_ite h hformat hcode

theorem holedWord_isWordOf (hlt : w.toNat < 2 ^ 32) {word : BitVec 40} {j : Half → Instr}
    (h : holedWord w word j = some i) (hformat : ∀ hole, formatOf (j hole) = format)
    (hcode : ∀ hole, code (j hole) = word ||| hole.setWidth 40) : IsWordOf format w i := by
  obtain ⟨hw, hj⟩ := Option.ite_none_right_eq_some.mp h
  obtain rfl := Option.some.inj hj
  have hmask : ∀ j < 32, 16 ≤ j → (0xFFFF0000#40).getLsbD j = true := by decide
  refine ⟨hformat _, (hcode _).trans ?_⟩
  rw [← hw]
  exact filled_of_masked hlt hmask

/-- A frame of the table: no bit outside its data pulses, the value in them (R93 to R95). -/
theorem frame_isWordOf {mask : BitVec 40} {k n : Nat} {j : BitVec n → Instr}
    (h : (if w &&& mask = 0#40 then some (j (w.extractLsb' k n)) else none) = some i)
    (hformat : ∀ value, formatOf (j value) = format)
    (hcode : ∀ value, code (j value) = value.setWidth 40 <<< k)
    (hmask : ∀ j < 40, j < k ∨ k + n ≤ j → mask.getLsbD j = true) : IsWordOf format w i := by
  obtain ⟨hw, hj⟩ := Option.ite_none_right_eq_some.mp h
  obtain rfl := Option.some.inj hj
  exact ⟨hformat _, (hcode _).trans (field_of_masked hmask hw)⟩

/-- HOSTCMD: every byte is the word of its row (R100, R111). -/
theorem decodeHost_isWordOf : ∀ b : Byte, IsWordOf .hostcmd (b.setWidth 40) (decodeHost b) := by
  unfold IsWordOf
  decide +kernel

theorem decodeHostRsp_isWordOf (h : decodeHostRsp w = some i) : IsWordOf .hostrsp w i := by
  unfold decodeHostRsp at h
  split at h
  case h_11 => cases h
  all_goals exact isWordOf_of_toNat ‹w.toNat = _› h rfl rfl

theorem decodeTapIr_isWordOf (h : decodeTapIr w = some i) : IsWordOf .tapir w i := by
  unfold decodeTapIr at h
  split at h
  case h_8 => cases h
  all_goals exact isWordOf_of_toNat ‹w.toNat = _› h rfl rfl

theorem decodeMchp8_isWordOf (h : decodeMchp8 w = some i) : IsWordOf .mchp8 w i := by
  unfold decodeMchp8 at h
  split at h
  case h_3 => cases h
  all_goals exact isWordOf_of_toNat ‹w.toNat = _› h rfl rfl

theorem decodeCtrl32_isWordOf (h : decodeCtrl32 w = some i) : IsWordOf .ctrl32 w i := by
  unfold decodeCtrl32 at h
  split at h
  case isTrue hw =>
    obtain rfl := Option.some.inj h
    exact ⟨rfl, hw.symm⟩
  case isFalse => exact isWordOf_of_ite h rfl rfl

/-- A row of the I-type table, keyed by the major opcode (R105). -/
theorem itypeWord_isWordOf (hlt : w.toNat < 2 ^ 32) {n : Nat} (hn : (w.extractLsb' 26 6).toNat = n)
    {j : Instr} (h : some j = some i) {major : BitVec 40}
    (hmajor : (BitVec.ofNat 6 n).setWidth 40 <<< 26 = major) (hformat : formatOf j = format)
    (hcode : code j = itypeWord major (rsField w) (rtField w) (immField w)) : IsWordOf format w i := by
  obtain rfl := Option.some.inj h
  subst hn
  rw [BitVec.ofNat_toNat, BitVec.setWidth_eq] at hmajor
  refine ⟨hformat, hcode.trans ?_⟩
  rw [← hmajor]
  exact itypeWord_fields hlt

/-- MIPS32I: the I-type forms by their major opcode, and the nop (R105). -/
theorem decodeMips_isWordOf (hlt : w.toNat < 2 ^ 32) (h : decodeMips w = some i) :
    IsWordOf .mips32i w i := by
  unfold decodeMips at h
  split at h
  case h_1 hn =>
    obtain ⟨hrs, hj⟩ := Option.ite_none_right_eq_some.mp h
    refine itypeWord_isWordOf hlt hn hj (major := 0x3C000000#40) (by decide) rfl ?_
    simp [code, itypeWord, hrs]
  case h_2 hn => exact itypeWord_isWordOf hlt hn h (major := 0x34000000#40) (by decide) rfl rfl
  case h_3 hn => exact itypeWord_isWordOf hlt hn h (major := 0x30000000#40) (by decide) rfl rfl
  case h_4 hn => exact itypeWord_isWordOf hlt hn h (major := 0xAC000000#40) (by decide) rfl rfl
  case h_5 hn => exact itypeWord_isWordOf hlt hn h (major := 0x8C000000#40) (by decide) rfl rfl
  case h_6 hn =>
    refine itypeWord_isWordOf hlt hn h (major := 0x14000000#40) (by decide) rfl ?_
    simp only [code, itypeWord, BitVec.or_assoc]
    rw [BitVec.or_comm ((rtField w).setWidth 40 <<< 16)]
  case h_7 => exact isWordOf_of_ite h rfl rfl
  case h_8 => cases h

theorem decodePre_isWordOf (k : Fin 2) (h : decodePre k.val w = some i) : IsWordOf (.injPre k) w i := by
  fin_cases k <;> exact fixedWord_isWordOf h rfl rfl

theorem decodeDl_isWordOf (hlt : w.toNat < 2 ^ 32) (k : Fin 5) (h : decodeDl k.val w = some i) :
    IsWordOf (.injDl k) w i := by
  fin_cases k
  · exact fixedWord_isWordOf h rfl rfl
  · exact holedWord_isWordOf hlt h (fun _ => rfl) fun _ => rfl
  · exact holedWord_isWordOf hlt h (fun _ => rfl) fun _ => rfl
  · exact holedWord_isWordOf hlt h (fun _ => rfl) fun _ => rfl
  · exact fixedWord_isWordOf h rfl rfl

theorem decodeRd_isWordOf (hlt : w.toNat < 2 ^ 32) (k : Fin 5) (h : decodeRd k.val w = some i) :
    IsWordOf (.injRd k) w i := by
  fin_cases k
  · exact fixedWord_isWordOf h rfl rfl
  · exact holedWord_isWordOf hlt h (fun _ => rfl) fun _ => rfl
  · exact holedWord_isWordOf hlt h (fun _ => rfl) fun _ => rfl
  · exact fixedWord_isWordOf h rfl rfl
  · exact fixedWord_isWordOf h rfl rfl

/-- FO: F2, F3 and F5 have the hole of R106 and F7 the operation code; the other words are fixed (R109). -/
theorem decodeFo_isWordOf (hlt : w.toNat < 2 ^ 32) (k : Fin 30) (h : decodeFo k.val w = some i) :
    IsWordOf (.injFo k) w i := by
  match k with
  | 2 | 3 | 5 => exact holedWord_isWordOf hlt h (fun _ => rfl) fun _ => rfl
  | 7 =>
    obtain ⟨hw, hj⟩ := Option.ite_none_right_eq_some.mp h
    obtain rfl := Option.some.inj hj
    have hmask : ∀ j < 32, 4 ≤ j → (0xFFFFFFF0#40).getLsbD j = true := by decide
    refine ⟨rfl, Eq.trans ?_ (filled_of_masked hlt hmask)⟩
    rw [hw]; rfl
  | 0 | 1 | 4 | 6 | 8 | 9 | 10 | 11 | 12 | 13 | 14 | 15 | 16 | 17 | 18 | 19 | 20 | 21 | 22 | 23 | 24 | 25
  | 26 | 27 | 28 | 29 => exact fixedWord_isWordOf h rfl rfl

/-- The row a word has in a format has that word there (R90). -/
theorem decodeRow_isWordOf (hlt : w.toNat < 2 ^ (8 * formatBytes format))
    (h : decodeRow format w = some i) : IsWordOf format w i := by
  cases format with
  | hostcmd =>
    obtain rfl := Option.some.inj h
    have hlt : w.toNat < 2 ^ 8 := hlt
    have hw : (w.setWidth 8).setWidth 40 = w := by
      apply BitVec.eq_of_toNat_eq
      rw [BitVec.toNat_setWidth, BitVec.toNat_setWidth, Nat.mod_eq_of_lt hlt, Nat.mod_eq_of_lt w.isLt]
    have := decodeHost_isWordOf (w.setWidth 8)
    rwa [hw] at this
  | hostrsp => exact decodeHostRsp_isWordOf h
  | mode => exact isWordOf_of_ite h rfl rfl
  | irscan => exact frame_isWordOf h (fun _ => rfl) (fun _ => rfl) (by decide)
  | drscan8 => exact frame_isWordOf h (fun _ => rfl) (fun _ => rfl) (by decide)
  | drscan32 => exact frame_isWordOf h (fun _ => rfl) (fun _ => rfl) (by decide)
  | fdscan => exact frame_isWordOf h (fun _ => rfl) (fun _ => rfl) (by decide)
  | tapir => exact decodeTapIr_isWordOf h
  | mchp8 => exact decodeMchp8_isWordOf h
  | ctrl32 => exact decodeCtrl32_isWordOf h
  | mips32i => exact decodeMips_isWordOf hlt h
  | injPre k => exact decodePre_isWordOf k h
  | injDl k => exact decodeDl_isWordOf hlt k h
  | injFo k => exact decodeFo_isWordOf hlt k h
  | injRd k => exact decodeRd_isWordOf hlt k h

end rows

/-! ### Whatever decodes is an encoding -/

/-- A word decodes only to a well-formed instruction whose row it has. -/
theorem decodeWord_eq_ok {format : Format} {w : BitVec 40} {i : Instr} (h : decodeWord format w = .ok i) :
    decodeRow format w = some i ∧ i.wellFormed = true := by
  unfold decodeWord at h
  split at h
  case h_1 j hrow =>
    split at h
    case isTrue hwf => cases h; exact ⟨hrow, hwf⟩
    case isFalse => cases h
  case h_2 => cases h

/-- Bytes that decode are enough for a word, which decodes, and the bytes after it. -/
theorem decode_eq_ok {format : Format} {bytes left : List Byte} {i : Instr}
    (h : decode format bytes = .ok (i, left)) :
    formatBytes format ≤ bytes.length ∧
    decodeWord format (BitVec.ofNat 40 (Bits.ofBytesLE (bytes.take (formatBytes format)))) = .ok i ∧
    bytes.drop (formatBytes format) = left := by
  unfold decode at h
  split at h
  case isTrue => cases h
  case isFalse hlength =>
    split at h
    case h_1 hword => cases h; exact ⟨Nat.le_of_not_lt hlength, hword, rfl⟩
    case h_2 => cases h

/-- Settles O8: the word that decoded is that of its row, and bytes are determined by their number. -/
theorem decodedBytesAreTheEncoding : Obligations.DecodedBytesAreTheEncoding := by
  intro format bytes left i h
  obtain ⟨hlength, hword, rfl⟩ := decode_eq_ok h
  obtain ⟨hrow, hwf⟩ := decodeWord_eq_ok hword
  have htake : (bytes.take (formatBytes format)).length = formatBytes format :=
    List.length_take_of_le hlength
  have hlt := ofBytesLE_lt (bytes.take (formatBytes format))
  rw [htake, show (256 : Nat) = 2 ^ 8 from rfl, ← pow_mul] at hlt
  have hnumber : (BitVec.ofNat 40 (Bits.ofBytesLE (bytes.take (formatBytes format)))).toNat =
      Bits.ofBytesLE (bytes.take (formatBytes format)) := by
    refine Nat.mod_eq_of_lt (hlt.trans_le (Nat.pow_le_pow_right (by decide) ?_))
    have := formatBytes_le format
    omega
  obtain ⟨hformat, hcode⟩ := decodeRow_isWordOf (hnumber.symm ▸ hlt) hrow
  have hencode : encode i = bytes.take (formatBytes format) := by
    have hbytes := bytesLE_ofBytesLE (bytes.take (formatBytes format))
    rw [encode, hformat, hcode, hnumber]
    rwa [htake] at hbytes
  exact ⟨hwf, hformat, by rw [hencode, List.take_append_drop]⟩

end Sys2Proof
end

section
/-! Which instruction a step runs (R45, R90, R97): the opcode byte of a host write, the bytes of a word in its
format, and a bare word of the opcode table. -/

namespace Sys2Proof

/-- The bytes after a word do not matter to it. -/
theorem decode_append {format : Format} {bytes left : List Byte} {i : Instr}
    (h : decode format bytes = .ok (i, left)) (more : List Byte) :
    decode format (bytes ++ more) = .ok (i, left ++ more) := by
  obtain ⟨hwf, rfl, rfl⟩ := decodedBytesAreTheEncoding _ _ _ _ h
  rw [List.append_assoc]
  exact decodeEncodeAgree i (left ++ more) hwf

/-- The row of an opcode byte encodes back to it. -/
theorem encode_decodeHost (b : Byte) : encode (decodeHost b) = [b] := by
  obtain ⟨hformat, hcode⟩ := decodeHost_isWordOf b
  have hlow : (b.setWidth 40).toNat = b.toNat :=
    BitVec.toNat_setWidth_of_le (by decide)
  rw [encode, hformat, hcode, hlow]
  show [BitVec.ofNat 8 b.toNat] = [b]
  rw [BitVec.ofNat_toNat, BitVec.setWidth_eq]

theorem decodeHost_wellFormed : ∀ b : Byte, (decodeHost b).wellFormed = true := by decide +kernel

/-- Every byte decodes as a host command (R100, R111). -/
theorem decode_hostcmd (b : Byte) (rest : List Byte) :
    decode .hostcmd (b :: rest) = .ok (decodeHost b, rest) := by
  have h := decodeEncodeAgree (decodeHost b) rest (decodeHost_wellFormed b)
  rwa [encode_decodeHost, (decodeHost_isWordOf b).1] at h

/-- The first format in which a bare word decodes is one in which it decodes. -/
theorem decode_of_firstFormat {nbits w : Nat} {formats : List Format} {format : Format} {i : Instr}
    (h : firstFormat nbits w formats = some (format, i)) :
    ∃ left, decode format (tableBytes format nbits w) = .ok (i, left) := by
  induction formats with
  | nil => cases h
  | cons f fs ih =>
    unfold firstFormat at h
    split at h
    case h_1 hdecode => cases h; exact ⟨_, hdecode⟩
    case h_2 => exact ih h

end Sys2Proof

namespace Sys2Proof.Machine

/-! ### The instruction of a request -/

/-- A word put before the idle engine runs as the instruction its bytes decode to. -/
theorem step_word {s : State} {format : Format} {bytes left : List Byte} {rest : List Request} {i : Instr}
    (h : s.requests = .word format bytes :: rest) (hbusy : s.busy = false)
    (hdecode : decode format bytes = .ok (i, left)) : step s = exec i { s with requests := rest } := by
  simp [step, fetch, h, fetchCommand, hbusy, hdecode, served_eq h]

/-- A write of H_CMD while no command runs runs the row of the word's low byte (R97). -/
theorem step_command {s : State} {value : Word} {rest : List Request}
    (h : s.requests = .write 0x00#32 value :: rest) (hbusy : s.busy = false) :
    step s = exec (decodeHost (value.setWidth 8)) { s with requests := rest } := by
  have hlow : BitVec.ofNat 8 value.toNat = value.setWidth 8 := BitVec.ofNat_toNat 8 value
  simp [step, fetch, h, hCmdOffset, fetchCommand, hbusy, Bits.bytesLE, decode_hostcmd, hlow, served_eq h]

/-- Settles O1: the low byte is the first of the word's four, and every byte decodes. -/
theorem stepRunsHostCommand : Obligations.StepRunsHostCommand := by
  intro s value rest i h hbusy hdecode
  rw [decode_hostcmd] at hdecode
  cases hdecode
  exact step_command h hbusy

/-- A bare word that the table reads as a host command is requested as a write of H_CMD. -/
theorem tableRequest_hostcmd {nbits w : Nat} {i : Instr}
    (h : firstFormat nbits w (tableFormats nbits w) = some (.hostcmd, i)) :
    tableRequest nbits w = .write 0x00#32 (BitVec.ofNat 32 (w % 2 ^ nbits)) := by
  rw [tableRequest, h]; rfl

/-- Any other bare word of the table is requested as a word of its format. -/
theorem tableRequest_word {nbits w : Nat} {format : Format} {i : Instr} (hformat : format ≠ .hostcmd)
    (h : firstFormat nbits w (tableFormats nbits w) = some (format, i)) :
    tableRequest nbits w = .word format (tableBytes format nbits w) := by
  rw [tableRequest, h]
  cases format with
  | hostcmd => exact absurd rfl hformat
  | _ => rfl

theorem tableBytes_hostcmd (nbits w : Nat) :
    tableBytes .hostcmd nbits w = [(BitVec.ofNat 32 (w % 2 ^ nbits)).setWidth 8] := by
  rw [BitVec.setWidth_ofNat_of_le (by decide)]
  rfl

/-- Settles O2: a bare word becomes a request of the first format in which it decodes. -/
theorem stepRunsTableWord : Obligations.StepRunsTableWord := by
  refine ⟨fun s f bytes left rest i h hbusy hdecode => step_word h hbusy hdecode, fun s nbits w i h => ?_⟩
  obtain ⟨⟨format, j⟩, hfirst, rfl⟩ := Option.map_eq_some_iff.mp h
  obtain ⟨left, hdecode⟩ := decode_of_firstFormat hfirst
  have hrequests : (s.withFetchWord nbits w).requests = tableRequest nbits w :: s.requests := rfl
  by_cases hformat : format = .hostcmd
  · subst hformat
    rw [tableRequest_hostcmd hfirst] at hrequests
    rw [tableBytes_hostcmd, decode_hostcmd] at hdecode
    cases hdecode
    exact step_command hrequests rfl
  · rw [tableRequest_word hformat hfirst] at hrequests
    exact step_word hrequests rfl hdecode

/-! ### The opcode bytes -/

/-- The row of a byte is a command of the opcode map with that opcode, or a reserved row (R100, R111). -/
theorem hostOpcode_decodeHost : ∀ b : Byte, hostOpcode (decodeHost b) = some b ∨
    (hostOpcode (decodeHost b) = none ∧ isReserved (decodeHost b) = true) := by decide +kernel

/-- Settles O6, by the table of the 256 bytes. -/
theorem everyHostByteDecodes : Obligations.EveryHostByteDecodes := fun b =>
  ⟨decodeHost b, decode_hostcmd b [], encode_decodeHost b, hostOpcode_decodeHost b⟩

/-- Settles O9: each word is evaluated by the decoder. -/
theorem handWrittenWordsDecode : Obligations.HandWrittenWordsDecode  :=
  ⟨rfl, rfl, rfl, rfl, rfl, rfl, rfl, rfl, rfl, rfl⟩

/-- The bytes of R111 are reserved. -/
theorem isReserved_decodeHost : ∀ b : Byte, b = 0x0C#8 ∨ b = 0x0D#8 ∨ b = 0x0F#8 ∨ 0x15#8 ≤ b →
    isReserved (decodeHost b) = true := by decide +kernel

/-- Every reserved row refuses with UnknownOpcode, whatever the state (R111). -/
theorem exec_reserved {i : Instr} (hi : isReserved i = true) (s : State) :
    exec i s = .next (refusedState 11#32 s) := by
  unfold isReserved at hi
  split at hi
  case h_9 => cases hi
  all_goals rfl

/-- Settles O38: the reserved bytes by the table, the eight rows by `exec_reserved`. -/
theorem reservedOpcodesRefuse : Obligations.ReservedOpcodesRefuse :=
  ⟨fun b hb => ⟨decodeHost b, decode_hostcmd b [], isReserved_decodeHost b hb⟩,
    fun _ s hi => exec_reserved hi s⟩

end Sys2Proof.Machine
end

section
/-! The raw commands (R226 to R230), and the rows of the opcode table that run by themselves: each is stated
once as the shared operation it runs, and the statements follow from what that operation does. -/

namespace Sys2Proof.Machine

/-! ### The raw commands on the operand registers -/

/-- An accepted command but NOP and CLEAR_ERROR meets no latched error (R212 step 2). -/
theorem Accepted.not_fatal {i : Instr} {s : State} (h : Accepted i s) (hpass : passesLatch i = false) :
    s.fatal = false := by
  obtain ⟨hlatch, -, -⟩ := h
  by_contra hfatal
  rw [hlatch (Bool.eq_true_of_not_eq_false hfatal)] at hpass
  exact Bool.noConfusion hpass

/-- The operands of an accepted command pass its check (R212 step 4). -/
theorem Accepted.operands {i : Instr} {s : State} (h : Accepted i s) : operandsOk i s = true := by
  obtain ⟨-, -, hoperands⟩ := h
  exact hoperands

/-- Settles O33: acceptance gives the width check, and `rawSetMode_done` the rest. -/
theorem rawSetModeCompletes : Obligations.RawSetModeCompletes := fun s ha =>
  ⟨_, rfl, rawSetMode_done s.arg1 (ha.not_fatal rfl) (of_decide_eq_true ha.operands)⟩

/-- Settles O34, by `rawSendCommand_done` of ARG0 and ARG1. -/
theorem rawSendCommandCompletes : Obligations.RawSendCommandCompletes := fun s ha =>
  ⟨_, rfl, rawSendCommand_done s.arg1 (ha.not_fatal rfl) (of_decide_eq_true ha.operands)⟩

/-- Settles O35, by `rawXferData_done` of ARG0 and ARG1. -/
theorem rawXferDataCompletes : Obligations.RawXferDataCompletes := fun s ha =>
  ⟨_, rfl, rawXferData_done s.arg1 (ha.not_fatal rfl) (of_decide_eq_true ha.operands)⟩

/-- Settles O36: no width to check, and `rawXferFastData_done` of ARG0. -/
theorem rawXferFastDataCompletes : Obligations.RawXferFastDataCompletes := fun s ha =>
  ⟨_, rfl, rawXferFastData_done s.arg0 (ha.not_fatal rfl)⟩

/-! ### The wire rows -/

/-- The rows of R102 and R93 run RAW_SEND_COMMAND of five bits (R133). -/
theorem exec_irRow {i : Instr} {opcode : Word} (h : irRow i = some opcode) (s : State) :
    exec i s = .next (rawSendCommand 5#32 opcode s) := by
  unfold irRow at h
  split at h
  case h_9 => cases h
  all_goals
    obtain rfl := Option.some.inj h
    rfl

/-- Settles O39: the raw command the row runs, done or refused. -/
theorem sendCommandRowsComplete : Obligations.SendCommandRowsComplete := by
  intro i opcode s hrow
  rw [exec_irRow hrow]
  exact ⟨fun hf => ⟨_, rfl, rawSendCommand_done opcode hf (bits := 5#32) (by decide)⟩,
    fun hf => by rw [rawSendCommand_fatal hf]⟩

/-- The rows of R94, R103 and R104 run RAW_XFER_DATA of their width and value (R135). -/
theorem exec_drRow {i : Instr} {bits : Nat} {value : Word} (h : drRow i = some (bits, value)) (s : State) :
    ∃ width : Word, width.toNat = bits ∧ bits ≤ 32 ∧ exec i s = .next (rawXferData width value s) := by
  cases i
  case xferData8 | mchpStatus | mchpErase => cases h; exact ⟨8#32, rfl, by decide, rfl⟩
  case xferData32 | ctrlResume | ctrlProceed => cases h; exact ⟨32#32, rfl, by decide, rfl⟩
  all_goals cases h

/-- Settles O40: the raw command the row runs, done or refused. -/
theorem xferDataRowsComplete : Obligations.XferDataRowsComplete := by
  intro i bits value s hrow
  obtain ⟨width, rfl, hwidth, hexec⟩ := exec_drRow hrow s
  rw [hexec]
  exact ⟨fun hf => ⟨_, rfl, rawXferData_done value hf hwidth⟩, fun hf => by rw [rawXferData_fatal hf]⟩

/-- SetMode(6, 0x1F) as a raw command leaves the shadow in Run-Test/Idle and nothing selected (R137). -/
theorem ModeSet.tapReset {s t : State} (h : ModeSet s t 6 0x1F#32) : ShadowAt t.bus none .unknownSel := by
  obtain ⟨-, -, -, hframe⟩ := h
  obtain ⟨-, -, -, hshadow⟩ := hframe (by decide)
  have hidle : t.bus.shadow = ⟨.runTestIdle, 0#3, none, .unknownSel⟩ :=
    hshadow.trans ((runPulses_shadow _ _).symm.trans (tapReset_shadow s.bus))
  exact ⟨⟨congrArg Shadow.tap hidle, congrArg Shadow.ones hidle⟩, congrArg Shadow.irSel hidle,
    congrArg Shadow.tapSel hidle⟩

/-- Settles O41; the shadow after the six pulses is that of TapReset. -/
theorem modeAndFastDataRowsComplete : Obligations.ModeAndFastDataRowsComplete := by
  have hmode : ∀ s, exec .setMode6TapReset s = .next (rawSetMode 6#32 0x1F#32 s) := fun _ => rfl
  have hfast : ∀ value s, exec (.xferFastData value) s = .next (rawXferFastData value s) :=
    fun _ _ => rfl
  intro s
  refine ⟨fun hf => ?_, fun hf => ?_, fun value => ⟨fun hf => ?_, fun hf => ?_⟩⟩
  · have hset := rawSetMode_done (bits := 6#32) 0x1F#32 hf (by decide)
    exact ⟨_, hmode s, hset, hset.tapReset⟩
  · rw [hmode, rawSetMode_fatal hf]
  · exact ⟨_, hfast value s, rawXferFastData_done value hf⟩
  · rw [hfast, rawXferFastData_fatal hf]

/-! ### The injected rows -/

/-- The word of an injected row is the constant of its row with the fields or the hole in place (R105 to
R110). -/
theorem wordOf_injectedRow {i : Instr} {word : Word} (h : injectedRow i = some word) : wordOf i = word := by
  cases i
  case lui rt imm =>
    cases h
    have := wordOf_itype 0x3C000000#40 0x3C000000#32 rfl 0#5 rt imm
    simpa [wordOf, code] using this
  case ori rt rs imm => cases h; exact wordOf_itype 0x34000000#40 0x34000000#32 rfl rs rt imm
  case andi rt rs imm => cases h; exact wordOf_itype 0x30000000#40 0x30000000#32 rfl rs rt imm
  case sw rt imm rs => cases h; exact wordOf_itype 0xAC000000#40 0xAC000000#32 rfl rs rt imm
  case lw rt imm rs => cases h; exact wordOf_itype 0x8C000000#40 0x8C000000#32 rfl rs rt imm
  case bne rs rt imm =>
    cases h
    rw [← wordOf_itype 0x14000000#40 0x14000000#32 rfl rs rt imm, wordOf, code]
    simp only [BitVec.or_assoc]
    rw [BitVec.or_comm (rt.setWidth 40 <<< 16)]
  case dlD1 | dlD2 | dlD3 | foF2 | foF3 | foF5 | foF7 | rdA1 | rdA2 =>
    cases h; exact wordOf_hole _ _ rfl _
  all_goals cases h <;> rfl

/-- An injected row runs RAW_XFER_INSTRUCTION of its word (R230). -/
theorem exec_injectedRow {i : Instr} {word : Word} (h : injectedRow i = some word) (s : State) :
    exec i s = .next (rawXferInstruction word s) := by
  have hword := wordOf_injectedRow h
  subst hword
  cases i
  case lui | ori | andi | sw | lw | bne | mipsNop | preP0 | preP1 | dlD0 | dlD1 | dlD2 | dlD3 | dlD4 |
    foF0 | foF1 | foF2 | foF3 | foF4 | foF5 | foF6 | foF7 | foF8 | foF9 | foF10 | foF11 | foF12 | foF13 |
    foF14 | foF15 | foF16 | foF17 | foF18 | foF19 | foF20 | foF21 | foF22 | foF23 | foF24 | foF25 | foF26
    | foF27 | foF28 | foF29 | rdA0 | rdA1 | rdA2 | rdA3 | rdA4 => rfl
  all_goals cases h

/-- Settles O42: the raw command of the row's word, done or refused. -/
theorem injectedRowsComplete : Obligations.InjectedRowsComplete := by
  intro i word s hrow
  rw [exec_injectedRow hrow]
  exact ⟨fun hf => ⟨_, rfl, rawXferInstruction_done word hf⟩,
    fun hf => by rw [rawXferInstruction_fatal hf]⟩

/-! ### The response rows -/

/-- Settles O43: each row is `respond` with its code and results. -/
theorem responseRowsComplete : Obligations.ResponseRowsComplete := by
  intro i s code r0 r1 h
  unfold responseRow at h
  split at h
  case h_11 => cases h
  all_goals
    cases h
    rfl

end Sys2Proof.Machine
end

section
/-! The device operations that end OK (R175, R179, R180, R221): ENTER_PGM_MODE, DOWNLOAD_DATA,
FLASH_OPERATION and PROGRAM_WORD. A template whose last word is serviced on a known poll leaves that poll's
Control word in the result register (R161), which the first two report there. -/

namespace Sys2Proof.Machine

/-! ### A template up to its last word -/

/-- One injection more is serviced. -/
theorem injectionsEnd_append {b : TapSession} {n off e j : Nat} (he : injectionsEnd b n off = some e)
    (hj : readyControlPoll b e = some j) : injectionsEnd b (n + 1) off = some (e + 144 + 37 * j) := by
  rw [injectionsEnd_add, he, Option.bind_some, injectionsEnd, injectionEnd, hj]
  rfl

/-- A template whose words are all serviced, the last on poll `j`: the result register has that poll's
Control word (R160, R161). -/
theorem injectTemplate_completed {template : List Instr} {ws : List Word} {w : Word} {length : Nat}
    (hws : template.map wordOf = ws ++ [w]) (hlength : ws.length + 1 = length) (hpos : ws ≠ [])
    {s : State} {e j : Nat} (he : injectionsEnd s.bus ws.length 0 = some e)
    (hj : readyControlPoll s.bus e = some j) :
    ∃ b poll step, injectTemplate template length s =
        .done () (s.wired b poll { value := controlWord s.bus e j, pracc := true }
          (s.injCount + BitVec.ofNat 32 length) step) ∧
      Scanned s.bus b (injectionsActions s.bus 0 (ws ++ [w])) s.bus.pins.rst (ir5 0x0A#32)
        s.bus.tapSel := by
  subst hlength
  obtain ⟨b, poll, value, step, hrun, -, -, hb⟩ :=
    injectTemplate_serviced template (ws.length + 1) (ws ++ [w]) hws (by simp) (by simp) s _
      (injectionsEnd_append he hj)
  have hres := injectTemplate_last template _ ws w hws hpos s _ e j he hj hrun
  rw [wired_res] at hres
  rw [hres] at hrun
  exact ⟨b, poll, step, hrun, hb⟩

/-! ### ENTER_PGM_MODE and DOWNLOAD_DATA -/

/-- EnterPgmMode (R175) with both preamble words serviced, the second on poll `j`. -/
theorem enterPgmMode_completed {s : State} {e j : Nat} (he : injectionsEnd s.bus 1 22 = some e)
    (hj : readyControlPoll s.bus e = some j) :
    ∃ b poll step, enterPgmMode s =
        .done () ((s.wired b poll { value := controlWord s.bus e j, pracc := true }
          (s.injCount + 2#32) step).setDev .debugMode) ∧
      Scanned s.bus b (bootActions ++ injectionsActions s.bus 22 preWords) false (ir5 0x0A#32) .etap := by
  obtain ⟨e', he', rfl⟩ := injectionsEnd_some_from (bootSent_answer s) he
  have ha : ∀ k, (bootSent s).bus.answer (e' + k) = s.bus.answer (22 + e' + k) := fun k => by
    rw [bootSent_answer, Nat.add_assoc]
  obtain ⟨b, poll, step, hrun, hb⟩ := injectTemplate_completed (s := bootSent s) (length := lengthPre)
    (ws := [0x3C04BF80#32]) (w := 0x3484F400#32) preWords_eq rfl (by simp) he'
    ((readyControlPoll_shift ha).trans hj)
  have hshift : injectionsActions (bootSent s).bus 0 preWords = injectionsActions s.bus 22 preWords :=
    injectionsActions_shift (fun k => by rw [Nat.zero_add]; exact bootSent_answer s k) _
  have hboot := scanned_bootSent s
  rw [show [0x3C04BF80#32] ++ [0x3484F400#32] = preWords from rfl, hshift, hboot.rst_eq] at hb
  rw [controlWord_shift ha] at hrun
  refine ⟨b, poll, step, ?_, hboot.trans_sel hb⟩
  rw [enterPgmMode_eq, hrun]
  rfl

/-- Settles O17: the operation ends with its last Control word, and the dispatcher responds OK. -/
theorem enterPgmModeCompletes : Obligations.EnterPgmModeCompletes := by
  intro s e j ha he hj
  obtain ⟨b, poll, step, hrun, hb⟩ := enterPgmMode_completed (s := s.accepted 0x02#8) he hj
  have hexec : exec .enterPgmMode s = .next (finish 0x02#8
      ((enterPgmMode (s.accepted 0x02#8)).andThen fun _ t => .done (0#32, 0#32) t)) :=
    congrArg _ ((checks_enterPgmMode s).accept ha _)
  rw [hrun] at hexec
  exact ⟨_, hexec, okEnd_wired_dev, rfl, rfl, rfl, hb.didScans, hb.idle⟩

/-- DownloadData (R179) with its five words serviced, the fifth on poll `j`. -/
theorem downloadData_completed (ramAddr data : Word) {s : State} {e j : Nat}
    (he : injectionsEnd s.bus 4 0 = some e) (hj : readyControlPoll s.bus e = some j) :
    ∃ b poll step, downloadData ramAddr data s =
        .done () (s.wired b poll { value := controlWord s.bus e j, pracc := true } (s.injCount + 5#32)
          step) ∧
      Scanned s.bus b (injectionsActions s.bus 0 (dlWords ramAddr data)) s.bus.pins.rst (ir5 0x0A#32)
        s.bus.tapSel :=
  have hlast : dlWords ramAddr data = (dlWords ramAddr data).take 4 ++ [0xAC880030#32] := rfl
  injectTemplate_completed ((dlWords_eq ramAddr data).trans hlast) rfl (by simp [dlWords]) he hj

/-- Settles O19: the download ends with its last Control word, and the dispatcher responds OK. -/
theorem downloadDataCompletes : Obligations.DownloadDataCompletes := by
  intro s e j ha he hj
  obtain ⟨b, poll, step, hrun, hb⟩ :=
    downloadData_completed s.arg0 s.arg1 (s := s.accepted 0x0A#8) he hj
  have hexec : exec .downloadData s = .next (finish 0x0A#8
      ((downloadData s.arg0 s.arg1 (s.accepted 0x0A#8)).andThen fun _ t => .done (0#32, 0#32) t)) :=
    congrArg _ ((checks_downloadData s).accept ha _)
  rw [hrun] at hexec
  exact ⟨_, hexec, okEnd_wired, ⟨rfl, rfl⟩, rfl, hb.didScans, hb.idle⟩

/-! ### FLASH_OPERATION and PROGRAM_WORD -/

/-- Settles O29: with bit 15 clear the status word is not "unconfirmed", whatever its error bits. -/
theorem flashOperationCompletes : Obligations.FlashOperationCompletes := by
  intro s e ha he hd hbit
  obtain ⟨b, poll, step, hrun, -, -, -, hb⟩ :=
    flashOperation_serviced s.arg0 s.arg1 s.arg2 (s.accepted 0x0B#8) e he
  rw [accepted_bus, hd, if_pos rfl] at hrun
  have hconfirmed : evalNvmStatus (drainWord s.bus e) ≠ .unconfirmed := fun h =>
    evalNvmStatus_unconfirmed.mp h hbit
  have hexec : exec .flashOperation s = .next (finish 0x0B#8
      ((flashOperation s.arg0 s.arg1 s.arg2 (s.accepted 0x0B#8)).andThen fun st t =>
        if evalNvmStatus st = .unconfirmed then .raised ⟨.busTimeout, t.arg1, st, 0#32⟩ t
        else .done (st, 0#32) t)) :=
    congrArg _ ((checks_flashOperation s).accept ha _)
  rw [hrun, Ran.andThen, if_neg hconfirmed] at hexec
  exact ⟨_, hexec, okEnd_wired, ⟨rfl, rfl⟩, rfl, hb.didScans, hb.idle⟩

/-- Settles O25: a clean status word ends ProgramWord after its first attempt. -/
theorem programWordFirstAttempt : Obligations.ProgramWordFirstAttempt := by
  intro s st e ha hattempt hclean
  obtain ⟨b, poll, step, hrun, -, -, hb⟩ :=
    programWord_first s.arg0 s.arg1 (s.accepted 0x07#8) st e hattempt
  rw [evalNvmStatus_done hclean] at hrun
  have hexec : exec .programWord s = .next (finish 0x07#8
      ((programWord s.arg0 s.arg1 (s.accepted 0x07#8)).andThen statusAndCount)) :=
    congrArg _ ((checks_programWord s).accept ha _)
  rw [hrun] at hexec
  exact ⟨_, hexec, okEnd_wired, ⟨rfl, rfl⟩, rfl, hb.didScans, hb.idle⟩

end Sys2Proof.Machine
end

section
/-! The TAP transfer primitives event by event and state by state (R92 to R96, R136, R139): how many events a
frame has, and which shadow states a scan from Run-Test/Idle passes. -/

namespace Sys2Proof.Machine

/-! ### Events -/

/-- Five events a pulse (R96). -/
theorem frameEvents_length (b : TapSession) (off : Nat) (ps : List Pulse) :
    (frameEvents b off ps).length = 5 * ps.length := by
  induction ps generalizing off with
  | nil => rfl
  | cons p ps ih =>
    rw [frameEvents, List.length_append, ih, List.length_cons, pulseEvents]
    simp only [List.length_cons, List.length_nil]
    omega

/-- What a session did with one frame appended that frame's events. -/
theorem Did.trace_frame {b b' : TapSession} {ps : List Pulse} (h : Did b b' [.frame ps]) :
    b'.trace = b.trace ++ frameEvents b 0 ps := by
  obtain ⟨htrace, -, -⟩ := h
  rwa [actionEvents, actionEvents, List.append_nil] at htrace

theorem Did.trace_length {b b' : TapSession} {ps : List Pulse} (h : Did b b' [.frame ps]) :
    b'.trace.length = b.trace.length + 5 * ps.length := by
  rw [h.trace_frame, List.length_append, frameEvents_length]

/-- SetMode of any width is frame MODE, which is empty for width 0 (R132, R139). -/
theorem setMode_trace_length (bits : Nat) (value : Word) (b : TapSession) :
    (setMode bits value b).2.trace.length = b.trace.length + 5 * bits := by
  by_cases hb : bits = 0
  · subst hb; rfl
  · obtain ⟨hdid, -⟩ := setMode_did hb value b
    rw [hdid.trace_length, modeFrame_length]

/-- Settles O56: each primitive did its frame, whose length is that of R92 to R95. -/
theorem frameEventCounts : Obligations.FrameEventCounts := by
  refine ⟨bitXfer_trace, fun bits value b => ⟨setMode_trace_length bits value b, fun hb => ?_, fun hb => ?_,
    ?_⟩, fun value b => ⟨setMode_zero value b, xferData_zero value b, sendCommand_zero value b⟩⟩
  · rw [(scanned_sendCommand hb value b).did.trace_length, irFrame_length]
  · rw [(scanned_xferData hb value b).did.trace_length, drFrame_length]
  · rw [(scanned_fastScan value b).did.trace_length, fdFrame_length]

/-! ### Shadow states -/

/-- The TAP states a shadow passes along a pulse list. -/
def Shadow.tapsAlong (h : Shadow) : List Pulse → List TapState
  | [] => []
  | p :: ps => (h.advance p.tms).tap :: (h.advance p.tms).tapsAlong ps

/-- The states a session passes depend on its shadow only. -/
theorem tapsAlong_eq (ps : List Pulse) (b : TapSession) : tapsAlong ps b = b.shadow.tapsAlong ps := by
  induction ps generalizing b with
  | nil => rfl
  | cons p ps ih => rw [tapsAlong, Shadow.tapsAlong, ih, bitXfer_shadow]; rfl

theorem Shadow.tapsAlong_append (h : Shadow) (ps qs : List Pulse) :
    h.tapsAlong (ps ++ qs) = h.tapsAlong ps ++ (h.after ps).tapsAlong qs := by
  induction ps generalizing h with
  | nil => rfl
  | cons p ps ih => exact congrArg (_ :: ·) (ih _)

/-- Low pulses stay in a shift state. -/
theorem Shadow.tapsAlong_low {h : Shadow} (hshift : h.advance false = h) (n : Nat) (f : Nat → Pulse)
    (hf : ∀ i < n, (f i).tms = false) :
    h.tapsAlong ((List.range n).map f) = List.replicate n h.tap := by
  induction n with
  | zero => rfl
  | succ n ih =>
    have hlow : ∀ i < n, (f i).tms = false := fun i hi => hf i (by omega)
    rw [List.range_succ, List.map_append, tapsAlong_append, ih hlow, Shadow.after,
      foldl_low n h hshift f hlow, List.replicate_succ']
    simp [tapsAlong, hf n (by omega), hshift]

/-- The data pulses of a scan stay in the shift state and leave it on the last (R285). -/
theorem Shadow.tapsAlong_dataPulses {h : Shadow} (hshift : h.advance false = h) (n : Nat) (value : Word) :
    h.tapsAlong (dataPulses (n + 1) value) = List.replicate n h.tap ++ [(h.advance true).tap] := by
  have hlow : ∀ i < n, decide (i + 1 = n + 1) = false := fun i hi => decide_eq_false (by omega)
  rw [dataPulses, List.range_succ, List.map_append, tapsAlong_append, tapsAlong_low hshift n _ hlow,
    Shadow.after, foldl_low n h hshift _ hlow]
  simp [tapsAlong]

/-- A scan whose header leads into a shift state passes that state once more for each data pulse but the
last, which leaves it. -/
theorem Shadow.tapsAlong_scan {h shift : Shadow} {header footer : List Pulse} {before left : List TapState}
    (hshift : shift.advance false = shift) (hafter : h.after header = shift)
    (hbefore : h.tapsAlong header = before ++ [shift.tap])
    (hleft : (shift.advance true).tap :: (shift.advance true).tapsAlong footer = left)
    {bits : Nat} (hb : bits ≠ 0) (value : Word) :
    h.tapsAlong (header ++ dataPulses bits value ++ footer) =
      before ++ List.replicate bits shift.tap ++ left := by
  have hdata : shift.after (dataPulses bits value) = shift.advance true :=
    foldl_dataPulses hb value shift hshift
  have hboth : h.after (header ++ dataPulses bits value) = shift.advance true := by
    rw [Shadow.after, List.foldl_append]
    exact (congrArg (Shadow.after · (dataPulses bits value)) hafter).trans hdata
  obtain ⟨n, rfl⟩ := Nat.exists_eq_succ_of_ne_zero hb
  rw [tapsAlong_append, tapsAlong_append, hboth, hafter, hbefore, tapsAlong_dataPulses hshift, ← hleft,
    List.replicate_succ]
  simp

section idle
variable {b : TapSession} (hidle : AtIdle b)
include hidle

theorem AtIdle.shadow : b.shadow = ⟨.runTestIdle, 0#3, b.irSel, b.tapSel⟩ := by
  obtain ⟨htap, hones⟩ := hidle
  rw [TapSession.shadow, htap, hones]

theorem AtIdle.tapsAlong_irFrame {bits : Nat} (hb : bits ≠ 0) (opcode : Word) :
    tapsAlong (irFrame bits opcode) b =
      [TapState.selectDR, .selectIR, .captureIR] ++ List.replicate bits TapState.shiftIR ++
        [TapState.exit1IR, .updateIR, .runTestIdle] := by
  rw [tapsAlong_eq, hidle.shadow]
  exact Shadow.tapsAlong_scan (advance_low_shiftIR _ _) rfl rfl rfl hb opcode

theorem AtIdle.tapsAlong_drFrame {bits : Nat} (hb : bits ≠ 0) (value : Word) :
    tapsAlong (drFrame bits value) b =
      [TapState.selectDR, .captureDR] ++ List.replicate bits TapState.shiftDR ++
        [TapState.exit1DR, .updateDR, .runTestIdle] := by
  rw [tapsAlong_eq, hidle.shadow]
  exact Shadow.tapsAlong_scan (advance_low_shiftDR _ _) rfl rfl rfl hb value

/-- The handshake pulse of a fast-data scan is a 33rd in Shift-DR (R95). -/
theorem AtIdle.tapsAlong_fdFrame (value : Word) :
    tapsAlong (fdFrame value) b =
      [TapState.selectDR, .captureDR] ++ List.replicate 33 TapState.shiftDR ++
        [TapState.exit1DR, .updateDR, .runTestIdle] := by
  rw [tapsAlong_eq, hidle.shadow]
  exact Shadow.tapsAlong_scan (before := [.selectDR, .captureDR, .shiftDR]) (advance_low_shiftDR _ _) rfl
    rfl rfl (by decide) value

end idle

/-- Settles O55: the events and the return by what a scan did, the states by the frame's pulses. -/
theorem scansReturnToIdle : Obligations.ScansReturnToIdle := by
  intro bits value b hb
  have hcommand := scanned_sendCommand hb value b
  have hdata := scanned_xferData hb value b
  have hfast := scanned_fastScan value b
  refine ⟨⟨hcommand.did.trace_frame, hdata.did.trace_frame, hfast.did.trace_frame⟩, fun hidle => ?_⟩
  obtain ⟨hcommandIdle, -⟩ := hcommand.idle hidle
  obtain ⟨hdataIdle, -⟩ := hdata.idle hidle
  obtain ⟨hfastIdle, -⟩ := hfast.idle hidle
  exact ⟨hcommandIdle, hdataIdle, hfastIdle, hidle.tapsAlong_irFrame hb value,
    hidle.tapsAlong_drFrame hb value, hidle.tapsAlong_fdFrame value⟩

end Sys2Proof.Machine
end

section
/-! TapReset (R137): the states its six pulses pass from any session. -/

namespace Sys2Proof.Machine

/-- The state after pulse `k` is where the pulses up to it lead. -/
theorem tapsAlong_getElem? {ps : List Pulse} {k : Nat} (hk : k < ps.length) (b : TapSession) :
    (tapsAlong ps b)[k]? = some (runPulses (ps.take (k + 1)) b).tap := by
  induction ps generalizing b k with
  | nil => cases hk
  | cons p ps ih =>
    cases k with
    | zero => rfl
    | succ k => exact ih (Nat.lt_of_succ_lt_succ hk) _

/-- Equal pulses in a row are one pulse repeated. -/
theorem runPulses_replicate (n : Nat) (p : Pulse) (b : TapSession) :
    runPulses (List.replicate n p) b = Nat.repeat (bitXfer p.tms p.tdi) n b := by
  induction n with
  | zero => rfl
  | succ n ih => rw [List.replicate_succ', runPulses_append, ih]; rfl

/-- The frame of TapReset is five high pulses and a low one (R137). -/
theorem modeFrame_tapReset :
    modeFrame 6 0x1F#32 = List.replicate 5 ⟨true, false⟩ ++ [⟨false, false⟩] := by decide

/-- The five high pulses of TapReset lead to Test-Logic-Reset (R137). -/
theorem tapReset_fifth_pulse (b : TapSession) :
    (tapsAlong (modeFrame 6 0x1F#32) b)[4]? = some .testLogicReset := by
  have htake : (modeFrame 6 0x1F#32).take 5 = List.replicate 5 ⟨true, false⟩ := by
    rw [modeFrame_tapReset, List.take_left' List.length_replicate]
  obtain ⟨htap, -⟩ := repeat_high_reset false b (le_refl 5)
  rw [tapsAlong_getElem? (by simp), htake, runPulses_replicate, htap]

/-- The whole frame of TapReset leads to Run-Test/Idle (R137). -/
theorem tapReset_sixth_pulse (b : TapSession) :
    (tapsAlong (modeFrame 6 0x1F#32) b)[5]? = some .runTestIdle := by
  rw [tapsAlong_getElem? (by simp), List.take_of_length_le (by simp)]
  exact congrArg (some ·.tap) (tapReset_shadow b)

/-- Settles O54: the frame is what TapReset did, the fifth pulse resets the shadow as five high pulses do
from every session, and the sixth leaves it idle. -/
theorem tapResetReachesIdle : Obligations.TapResetReachesIdle := fun b =>
  ⟨rfl, by rw [modeFrame_tapReset]; rfl, (scanned_tapReset b).did, tapReset_fifth_pulse b,
    tapReset_sixth_pulse b, atIdle_tapReset b⟩

end Sys2Proof.Machine
end

section
/-! The injector (R160 to R164, R184): how a list of injections can end, and how a command ends of which a
word is never serviced (R162, R250), in its first attempt or, for PROGRAM_WORD, in its second (R221). -/

namespace Sys2Proof.Machine

/-! ### The count check (R184) -/

/-- The two ways in which the injection of `ws` from `s` can end (R162): every word counted in
`S.inj_count`, or the BusTimeout of one of them. -/
def InjectsOrTimesOut (ws : List Word) (s : State) : Ran Unit → Prop
  | .done _ t => t.injCount = s.injCount + BitVec.ofNat 32 ws.length
  | .raised e _ => e.kind = .busTimeout ∧ e.addr ∈ ws ∧ e.exp = 0x0004C000#32

/-- One word is injected or times out. -/
theorem inject_ends (word : Word) (s : State) : InjectsOrTimesOut [word] s (inject word s) := by
  cases hj : readyControlPoll s.bus 0 with
  | some j =>
    obtain ⟨b, hrun, -⟩ := inject_serviced word s j hj
    rw [hrun]
    exact rfl
  | none =>
    obtain ⟨b, hrun, -⟩ := inject_timeout word s hj
    rw [hrun]
    exact ⟨rfl, List.mem_singleton_self word, rfl⟩

theorem injectWords_ends (ws : List Word) (s : State) :
    InjectsOrTimesOut ws s (injectWords ws s) := by
  induction ws generalizing s with
  | nil => exact (BitVec.add_zero s.injCount).symm
  | cons w ws ih =>
    have hword := inject_ends w s
    rw [injectWords]
    cases hrun : inject w s with
    | raised e u =>
      rw [hrun] at hword
      obtain ⟨hkind, haddr, hexp⟩ := hword
      exact ⟨hkind, List.mem_cons.mpr (.inl (List.mem_singleton.mp haddr)), hexp⟩
    | done a u =>
      rw [hrun] at hword
      have hcount : u.injCount = s.injCount + 1#32 := hword
      have hrest := ih u
      rw [Ran.andThen]
      cases hws : injectWords ws u with
      | raised e v =>
        rw [hws] at hrest
        obtain ⟨hkind, haddr, hexp⟩ := hrest
        exact ⟨hkind, List.mem_cons_of_mem w haddr, hexp⟩
      | done a v =>
        rw [hws] at hrest
        calc v.injCount = u.injCount + BitVec.ofNat 32 ws.length := hrest
          _ = s.injCount + BitVec.ofNat 32 (ws.length + 1) := by
            rw [hcount, BitVec.add_assoc, BitVec.ofNat_add, BitVec.add_comm 1#32]

/-- The count check passes when the count grew by the expected number (R184). -/
theorem checkCount_of_grown {before : Word} {length : Nat} {s : State}
    (h : s.injCount = before + BitVec.ofNat 32 length) : checkCount before length s = .done () s := by
  rw [checkCount, if_pos (by rw [h, BitVec.add_comm, BitVec.add_sub_cancel])]

/-- Settles O59: the words end counted, so that the check passes, or in a BusTimeout before it. -/
theorem countCheckNeverFails : Obligations.CountCheckNeverFails := by
  intro template s t e h
  have hends := injectWords_ends (template.map wordOf) s
  rw [injectTemplate] at h
  cases hrun : injectWords (template.map wordOf) s with
  | done a u =>
    rw [hrun] at h hends
    have hgrown : u.injCount = s.injCount + BitVec.ofNat 32 template.length := by
      rw [← List.length_map (f := wordOf)]; exact hends
    rw [Ran.andThen, checkCount_of_grown hgrown] at h
    cases h
  | raised e' u =>
    rw [hrun] at h hends
    cases h
    exact hends

/-! ### RAW_XFER_INSTRUCTION (R230) -/

/-- Settles O37: acceptance gives the clear latch, and `rawXferInstruction_done` of ARG0 the rest. -/
theorem rawXferInstructionCompletes : Obligations.RawXferInstructionCompletes := fun s ha =>
  ⟨_, rfl, rawXferInstruction_done s.arg0 (ha.not_fatal rfl)⟩

/-! ### Ended by a word never serviced (R162) -/

/-- A procedure started in `s` ended in the BusTimeout of `word`, whose last Control word was `obs`, after
`count` injections: only the wire side has moved on, by the actions `as`, which end on the Control
register (R160, R162). -/
def TimesOut {α : Type} (s : State) (word obs : Word) (count : Nat) (as : List Action) (rst : Bool)
    (sel : TapSel) (r : Ran α) : Prop :=
  ∃ b poll step,
    r = .raised ⟨.busTimeout, word, obs, 0x0004C000#32⟩
      (s.wired b poll { value := obs, pracc := false } (s.injCount + BitVec.ofNat 32 count) step) ∧
    Scanned s.bus b as rst (ir5 0x0A#32) sel

/-- An accepted command is its body, ended (R212). -/
theorem Checks.exec_accepted {i : Instr} {c : Byte} {op : Operation} {argsOk : Bool}
    {s : State} (hchecks : Checks i c op argsOk s) (ha : Accepted i s) {body : State → Ran (Word × Word)}
    (hexec : exec i s = .next (runCommand c op argsOk body s)) :
    exec i s = .next (finish c (body (s.accepted c))) :=
  hexec.trans (congrArg _ (hchecks.accept ha body))

section timesOut
variable {α β : Type} {s : State} {word obs : Word} {count : Nat} {as : List Action} {rst : Bool}
  {sel : TapSel}

/-- What would follow is not done (R250). -/
theorem TimesOut.andThen {r : Ran α} (h : TimesOut s word obs count as rst sel r)
    (f : α → State → Ran β) : TimesOut s word obs count as rst sel (r.andThen f) := by
  obtain ⟨b, poll, step, hrun, hb⟩ := h
  exact ⟨b, poll, step, by rw [hrun]; rfl, hb⟩

/-- A command whose body timed out takes the error (R212 step 5, R250). -/
theorem TimesOut.ends {c : Byte} {r : Ran (Word × Word)}
    (h : TimesOut (s.accepted c) word obs count as rst sel r) :
    ErrorEnd s (finish c r) 1#4 c word obs 0x0004C000#32 (BitVec.ofNat 32 count) ∧
      DeviceDropped s (finish c r) ∧ (finish c r).res = { value := obs, pracc := false } ∧
      DidScans s.bus (finish c r).bus as rst ∧
      (AtIdle s.bus → ShadowAt (finish c r).bus (ir5 0x0A#32) sel) := by
  obtain ⟨b, poll, step, rfl, hb⟩ := h
  rw [accepted_injCount, BitVec.zero_add]
  exact ⟨errorEnd_wired, raise_dropped _ _ _ rfl, rfl, hb.didScans, hb.idle⟩

end timesOut

/-! ### The procedures that inject a template (R175, R179, R180, R183, R210, R221) -/

section unserviced
variable {ws : List Word} {k : Nat} {w : Word} {s : State} {e : Nat} (hk : ws[k]? = some w)
  (he : injectionsEnd s.bus k 0 = some e) (hn : readyControlPoll s.bus e = none)
include hk he hn

theorem injectTemplate_timesOut {template : List Instr} (hws : template.map wordOf = ws)
    (length : Nat) :
    TimesOut s w (controlWord s.bus e 99) k
      (injectionsActions s.bus 0 (ws.take k) ++ injectionTimeout) s.bus.pins.rst s.bus.tapSel
      (injectTemplate template length s) := by
  obtain ⟨b, poll, step, hrun, -, hb⟩ := injectTemplate_timeout template length ws hws k w hk s e he hn
  exact ⟨b, poll, step, hrun, hb⟩

theorem readFlashData_timesOut {addr : Word} (hws : rdWords addr = ws) :
    TimesOut s w (controlWord s.bus e 99) k
      (injectionsActions s.bus 0 (ws.take k) ++ injectionTimeout) s.bus.pins.rst s.bus.tapSel
      (readFlashData addr s) :=
  (injectTemplate_timesOut hk he hn ((rdWords_eq addr).trans hws) lengthRd).andThen _

end unserviced

/-- ProgramWord (R221) of whose first attempt a word is never serviced. -/
theorem programWord_timesOut {a v : Word} {k : Nat} {w : Word} {s : State} {e : Nat}
    (hk : (dlWords 0#32 v ++ foWords 0x1#32 a 0#32)[k]? = some w)
    (he : injectionsEnd s.bus k 0 = some e) (hn : readyControlPoll s.bus e = none) :
    TimesOut s w (controlWord s.bus e 99) k
      (injectionsActions s.bus 0 ((dlWords 0#32 v ++ foWords 0x1#32 a 0#32).take k) ++ injectionTimeout)
      s.bus.pins.rst s.bus.tapSel (programWord a v s) :=
  programAttempts_timeout a v 1 { s with poll := { s.poll with attempt := 0 } } k w hk e he hn

/-- ProgramWord (R221) whose first attempt failed and of whose second a word is never serviced. -/
theorem programWord_second_timesOut {a v st : Word} {e₁ k : Nat} {w : Word} {s : State} {e : Nat}
    (hattempt : programAttempt s.bus 0 = some (st, e₁)) (hfailed : evalNvmStatus st = .failed)
    (hk : (dlWords 0#32 v ++ foWords 0x1#32 a 0#32)[k]? = some w)
    (he : injectionsEnd s.bus k e₁ = some e) (hn : readyControlPoll s.bus e = none) :
    TimesOut s w (controlWord s.bus e 99) (35 + k)
      (attemptActions s.bus 0 a v ++
        (injectionsActions s.bus e₁ ((dlWords 0#32 v ++ foWords 0x1#32 a 0#32).take k) ++
          injectionTimeout))
      s.bus.pins.rst s.bus.tapSel (programWord a v s) := by
  obtain ⟨b₁, poll₁, step₁, hfirst, -, hpulses, hb₁⟩ := programWord_first a v s st e₁ hattempt
  rw [hfailed] at hfirst
  have hanswer : ∀ i, b₁.answer i = s.bus.answer (e₁ + i) := fun i => by
    rw [hb₁.did.answer, hpulses]
  have hzero : ∀ i, b₁.answer (0 + i) = s.bus.answer (e₁ + i) := fun i => by
    rw [Nat.zero_add, hanswer]
  obtain ⟨m, hm, hme⟩ := injectionsEnd_some_from hanswer he
  have hlate : ∀ i, b₁.answer (m + i) = s.bus.answer (e + i) := fun i => by
    rw [hanswer, ← hme, Nat.add_assoc]
  have hcount : s.injCount + 35#32 + BitVec.ofNat 32 k = s.injCount + BitVec.ofNat 32 (35 + k) := by
    rw [BitVec.add_assoc, BitVec.ofNat_add]
  obtain ⟨b, poll, step, hsecond, hb⟩ := programAttempts_timeout a v 0
    (s.wired b₁ poll₁ { value := st, pracc := true } (s.injCount + 35#32) step₁) k w hk m hm
    ((readyControlPoll_shift hlate).trans hn)
  simp only [wired_bus, wired_wired, wired_injCount, controlWord_shift hlate, hcount, hb₁.rst_eq,
    injectionsActions_shift hzero] at hsecond hb
  exact ⟨b, poll, step, hfirst.trans hsecond, hb₁.trans_sel hb⟩

/-! ### The statements -/

/-- Settles O18: the preamble times out after the boot scans, and the dispatcher takes the error. -/
theorem enterPgmModeTimeoutRaises : Obligations.EnterPgmModeTimeoutRaises := by
  intro s k e w ha hk he hn
  have hout : TimesOut (s.accepted 0x02#8) w (controlWord s.bus e 99) k
      (bootActions ++ (injectionsActions s.bus 22 (preWords.take k) ++ injectionTimeout)) false .etap
      (enterPgmMode (s.accepted 0x02#8)) :=
    enterPgmMode_timeout _ k w hk e he hn
  rw [← List.append_assoc] at hout
  exact ⟨_, (checks_enterPgmMode s).exec_accepted ha rfl, (hout.andThen _).ends⟩

/-- Settles O32: each command is the dispatcher over the procedure that times out; IDENTIFY has dropped the
identity before it. -/
theorem injectionTimeoutRaises : Obligations.InjectionTimeoutRaises := by
  constructor
  · intro i s c ws k e w ha hi hk he hn
    unfold injects at hi
    split at hi <;> cases hi
    case h_1 => -- IDENTIFY (R210, R220)
      have hout := readFlashData_timesOut
        (s := ({ s with ident := { s.ident with valid := false } } : State).accepted 0x06#8) hk he hn rfl
      exact ⟨_, (checks_identify s).exec_accepted ha rfl, ((hout.andThen _).andThen _).ends⟩
    case h_2 => -- PROGRAM_WORD (R221)
      have hout := programWord_timesOut (s := s.accepted 0x07#8) hk he hn
      exact ⟨_, (checks_programWord s).exec_accepted ha rfl, (hout.andThen _).ends⟩
    case h_3 => -- READ_WORD (R222)
      have hout := readFlashData_timesOut (s := s.accepted 0x08#8) hk he hn rfl
      exact ⟨_, (checks_readWord s).exec_accepted ha rfl, (hout.andThen _).ends⟩
    case h_4 => -- VERIFY_WORD (R223)
      have hout := readFlashData_timesOut (s := s.accepted 0x09#8) hk he hn rfl
      exact ⟨_, (checks_verifyWord s).exec_accepted ha rfl, (hout.andThen _).ends⟩
    case h_5 => -- DOWNLOAD_DATA (R224)
      have hout := injectTemplate_timesOut (s := s.accepted 0x0A#8) hk he hn (dlWords_eq _ _) lengthDl
      exact ⟨_, (checks_downloadData s).exec_accepted ha rfl, (hout.andThen _).ends⟩
    case h_6 => -- FLASH_OPERATION (R225)
      have hout := injectTemplate_timesOut (s := s.accepted 0x0B#8) hk he hn (foWords_eq _ _ _) lengthFo
      exact ⟨_, (checks_flashOperation s).exec_accepted ha rfl, ((hout.andThen _).andThen _).ends⟩
  · intro s st e₁ k e w ha hattempt hconfirmed herror hk he hn
    have hout := programWord_second_timesOut (s := s.accepted 0x07#8) hattempt
      (evalNvmStatus_failed hconfirmed herror) hk he hn
    exact ⟨_, (checks_programWord s).exec_accepted ha rfl, (hout.andThen _).ends⟩

end Sys2Proof.Machine
end

section
/-! The device-control commands (R171 to R178, R212, R215, R217 to R219): the legality table, the reset line,
and the commands that poll the status register, whether the poll is accepted or times out. -/

namespace Sys2Proof.Machine

/-! ### The legality table (R171) -/

/-- Settles O45: every host command is the dispatcher over its own checks, and `Checks.illegalState` says how
the dispatcher answers when the legality table is the first to forbid it. -/
theorem illegalStateRefuses : Obligations.IllegalStateRefuses := by
  intro i c s hi hlatch hforbidden
  obtain ⟨op, argsOk, body, hexec, hchecks⟩ := exec_command s i c hi
  rw [hexec, hchecks.illegalState hlatch hforbidden]

/-! ### ASSERT_TARGET_RESET and EXIT_PGM_MODE (R176 to R178) -/

/-- AssertTargetReset (R177) is one edge of the reset line, whatever its level was, and the drop of the
device state. -/
theorem assertReset_eq (asserted : Bool) (s : State) :
    assertReset asserted s =
      (s.wired (driveRst asserted s.bus) s.poll s.res s.injCount (s.seq.step + 1)).setDev .unknown := by
  rw [assertReset, setRst_eq]; rfl

/-- Settles O12: with the latch clear nothing refuses the command, and it drives the line by ARG0[0]. -/
theorem assertTargetResetCompletes : Obligations.AssertTargetResetCompletes := by
  intro s hf
  have ha : Accepted .assertTargetReset s := ⟨fun h => absurd h (by simp [hf]), rfl, rfl⟩
  have hexec : exec .assertTargetReset s = .next (finish 0x05#8
      (.done (0#32, 0#32) (assertReset (s.arg0.getLsbD 0) (s.accepted 0x05#8)))) :=
    (checks_assertTargetReset s).exec_accepted ha rfl
  rw [assertReset_eq] at hexec
  exact hexec

/-- Settles O13: `exitPgmMode_eq` says where the operation leaves the session, and the dispatcher responds
OK. -/
theorem exitPgmModeCompletes : Obligations.ExitPgmModeCompletes := by
  intro s ha
  obtain ⟨b, step, hrun, hdid, hidle⟩ := exitPgmMode_eq (s.accepted 0x03#8)
  have hexec : exec .exitPgmMode s = .next (finish 0x03#8
      (.done (0#32, 0#32) (exitPgmMode (s.accepted 0x03#8)))) :=
    (checks_exitPgmMode s).exec_accepted ha rfl
  rw [hrun] at hexec
  exact ⟨_, hexec, okEnd_wired_dev, rfl, rfl, rfl, hdid, hidle⟩

/-! ### WAIT_READY and ERASE_ALL (R172 to R174) -/

/-- An accepted WAIT_READY is CheckStatus, ended (R212, R215). -/
theorem exec_waitReady_accepted {s : State} (ha : Accepted .waitReady s) :
    exec .waitReady s =
      .next (finish 0x01#8 ((checkStatus (s.accepted 0x01#8)).andThen statusAndCount)) :=
  (checks_waitReady s).exec_accepted ha rfl

/-- An accepted ERASE_ALL is Erase, ended (R212, R218). -/
theorem exec_eraseAll_accepted {s : State} (ha : Accepted .eraseAll s) :
    exec .eraseAll s = .next (finish 0x04#8 ((erase (s.accepted 0x04#8)).andThen statusAndCount)) :=
  (checks_eraseAll s).exec_accepted ha rfl

/-- Settles O14: CheckStatus resets the TAP, so the selection holds from every shadow. -/
theorem waitReadyCompletes : Obligations.WaitReadyCompletes := by
  intro s j ha hj
  obtain ⟨b, step, hrun, hdid, hidle⟩ := checkStatus_ready (s.accepted 0x01#8) j hj
  have hexec := exec_waitReady_accepted ha
  rw [hrun] at hexec
  exact ⟨_, hexec, okEnd_wired_dev, rfl, rfl, rfl, hdid, hidle⟩

/-- Settles O15: Erase ends back on the execution tap with the accepted byte. -/
theorem eraseAllCompletes : Obligations.EraseAllCompletes := by
  intro s j ha hj
  obtain ⟨b, step, hrun, hb⟩ := erase_ready (s.accepted 0x04#8) j hj
  have hexec := exec_eraseAll_accepted ha
  rw [hrun] at hexec
  exact ⟨_, hexec, okEnd_wired, rfl, ⟨rfl, rfl⟩, hb.didScans, hb.idle⟩

/-- Settles O16: what would follow the poll is not done, and the error drops the device state (R250). -/
theorem statusPollTimeoutRaises : Obligations.StatusPollTimeoutRaises := by
  constructor
  · intro s ha hj
    obtain ⟨b, step, hrun, hdid, hidle⟩ := checkStatus_timeout (s.accepted 0x01#8) hj
    have hexec := exec_waitReady_accepted ha
    rw [hrun] at hexec
    exact ⟨_, hexec, errorEnd_wired, rfl, raise_dropped _ _ _ rfl, hdid, hidle⟩
  · intro s ha hj
    obtain ⟨b, step, hrun, hb⟩ := erase_timeout (s.accepted 0x04#8) hj
    have hexec := exec_eraseAll_accepted ha
    rw [hrun] at hexec
    exact ⟨_, hexec, errorEnd_wired, rfl, raise_dropped _ _ _ rfl, hb.didScans, hb.idle⟩

end Sys2Proof.Machine
end

section
/-! The commands that end in a fast-data drain (R180 to R183, R210, R221 to R225): VERIFY_WORD with the word
expected, the second attempt of PROGRAM_WORD, the status word still busy, and the drain without its handshake
bit. -/

namespace Sys2Proof.Machine

/-! ### Ended by a drain (R182) -/

/-- A procedure started in `s` did the actions `as`, the last of them a drain that read `word` with the
handshake bit `pracc`, after `count` injections, and ended as `result` says of the state then: only the wire
side has moved on, and the fast-data register is selected. -/
def Drains {α : Type} (s : State) (result : State → Ran α) (word : Word) (pracc : Bool) (count : Word)
    (as : List Action) (r : Ran α) : Prop :=
  ∃ b poll step,
    r = result (s.wired b poll { value := word, pracc := pracc } (s.injCount + count) step) ∧
    Scanned s.bus b as s.bus.pins.rst (ir5 0x0E#32) s.bus.tapSel

/-- ProtocolFraming of a drain whose second scan read `word` without its handshake bit (R182, R242). -/
def framingError (word : Word) : RaiseInfo := ⟨.protocolFraming, 0#32, word, 1#32⟩

/-- BusTimeout of a flash operation at `a` whose status word is still busy (R181, R241). -/
def unconfirmedError (a st : Word) : RaiseInfo := ⟨.busTimeout, a, st, 0#32⟩

section drains
variable {α β : Type} {s : State} {word count : Word} {pracc : Bool} {as : List Action}

/-- What follows a drain that is done starts in the state the drain left, with the same operands. -/
theorem Drains.done_andThen {a : α} {r : Ran α} (h : Drains s (.done a) word pracc count as r)
    {f : α → State → Ran β} {result : State → Ran β}
    (hf : ∀ b poll res n step, f a (s.wired b poll res n step) = result (s.wired b poll res n step)) :
    Drains s result word pracc count as (r.andThen f) := by
  obtain ⟨b, poll, step, rfl, hb⟩ := h
  exact ⟨b, poll, step, hf _ _ _ _ _, hb⟩

/-- What would follow a raised error is not done (R250). -/
theorem Drains.raised_andThen {e : RaiseInfo} {r : Ran α} (h : Drains s (.raised e) word pracc count as r)
    (f : α → State → Ran β) : Drains s (.raised e) word pracc count as (r.andThen f) := by
  obtain ⟨b, poll, step, rfl, hb⟩ := h
  exact ⟨b, poll, step, rfl, hb⟩

/-- A command whose body drained and is done responds OK (R212 step 5). -/
theorem Drains.okEnd {c : Byte} {r0 r1 : Word} {r : Ran (Word × Word)}
    (h : Drains (s.accepted c) (.done (r0, r1)) word pracc count as r) :
    OkEnd s (finish c r) r0 r1 count ∧ DeviceKept s (finish c r) ∧
      (finish c r).res = { value := word, pracc := pracc } ∧
      DidScans s.bus (finish c r).bus as s.bus.pins.rst ∧
      (AtIdle s.bus → ShadowAt (finish c r).bus (ir5 0x0E#32) s.bus.tapSel) := by
  obtain ⟨b, poll, step, rfl, hb⟩ := h
  rw [accepted_injCount, BitVec.zero_add]
  exact ⟨okEnd_wired, ⟨rfl, rfl⟩, rfl, hb.didScans, hb.idle⟩

/-- A command whose body drained and raised BusTimeout or ProtocolFraming takes the error (R212 step 5,
R250). -/
theorem Drains.errorEnd {c : Byte} {e : RaiseInfo} {r : Ran (Word × Word)} (hdrops : dropsDev e.kind = true)
    (h : Drains (s.accepted c) (.raised e) word pracc count as r) :
    ErrorEnd s (finish c r) e.kind.toCode c e.addr e.obs e.exp count ∧ DeviceDropped s (finish c r) ∧
      (finish c r).res = { value := word, pracc := pracc } ∧
      DidScans s.bus (finish c r).bus as s.bus.pins.rst ∧
      (AtIdle s.bus → ShadowAt (finish c r).bus (ir5 0x0E#32) s.bus.tapSel) := by
  obtain ⟨b, poll, step, rfl, hb⟩ := h
  rw [accepted_injCount, BitVec.zero_add]
  exact ⟨errorEnd_wired, raise_dropped _ _ _ hdrops, raise_res _ _ _,
    by rw [finish, raise_bus]; exact hb.didScans, by rw [finish, raise_bus]; exact hb.idle⟩

end drains

/-! ### The procedures that drain (R180, R183, R221) -/

section serviced
variable {s : State} {e : Nat}

/-- ReadFlashData (R183) whose second fast-data scan shows the handshake bit. -/
theorem readFlashData_done (addr : Word) (he : injectionsEnd s.bus 5 0 = some e)
    (hd : drainPracc s.bus e = true) :
    Drains s (.done (drainWord s.bus e)) (drainWord s.bus e) true 5#32
      (injectionsActions s.bus 0 (rdWords addr) ++ drainActions) (readFlashData addr s) :=
  readFlashData_confirmed addr he hd

/-- ReadFlashData (R183) whose second fast-data scan shows no handshake bit. -/
theorem readFlashData_noHandshake (addr : Word) (he : injectionsEnd s.bus 5 0 = some e)
    (hd : drainPracc s.bus e = false) :
    Drains s (.raised (framingError (drainWord s.bus e))) (drainWord s.bus e) false 5#32
      (injectionsActions s.bus 0 (rdWords addr) ++ drainActions) (readFlashData addr s) := by
  obtain ⟨b, poll, step, hrun, -, -, hb⟩ := readFlashData_serviced addr s e he
  rw [hd, if_neg Bool.false_ne_true] at hrun
  exact ⟨b, poll, step, hrun, hb⟩

/-- FlashOperation (R180) whose second fast-data scan shows the handshake bit. -/
theorem flashOperation_done (op flashAddr ramAddr : Word) (he : injectionsEnd s.bus 30 0 = some e)
    (hd : drainPracc s.bus e = true) :
    Drains s (.done (drainWord s.bus e)) (drainWord s.bus e) true 30#32
      (injectionsActions s.bus 0 (foWords op flashAddr ramAddr) ++ drainActions)
      (flashOperation op flashAddr ramAddr s) := by
  obtain ⟨b, poll, step, hrun, -, -, -, hb⟩ := flashOperation_serviced op flashAddr ramAddr s e he
  rw [if_pos hd] at hrun
  exact ⟨b, poll, step, hrun, hb⟩

/-- FlashOperation (R180) whose second fast-data scan shows no handshake bit. -/
theorem flashOperation_noHandshake (op flashAddr ramAddr : Word)
    (he : injectionsEnd s.bus 30 0 = some e) (hd : drainPracc s.bus e = false) :
    Drains s (.raised (framingError (drainWord s.bus e))) (drainWord s.bus e) false 30#32
      (injectionsActions s.bus 0 (foWords op flashAddr ramAddr) ++ drainActions)
      (flashOperation op flashAddr ramAddr s) := by
  obtain ⟨b, poll, step, hrun, -, -, -, hb⟩ := flashOperation_serviced op flashAddr ramAddr s e he
  rw [hd, if_neg Bool.false_ne_true] at hrun
  exact ⟨b, poll, step, hrun, hb⟩

end serviced

section programWord
variable {a v st : Word} {s : State} {e₁ : Nat} (hattempt : programAttempt s.bus 0 = some (st, e₁))
include hattempt

/-- ProgramWord (R221) whose first status word is still busy. -/
theorem programWord_first_unconfirmed (hbusy : evalNvmStatus st = .unconfirmed) :
    Drains s (.raised (unconfirmedError a st)) st true 35#32 (attemptActions s.bus 0 a v)
      (programWord a v s) := by
  obtain ⟨b, poll, step, hrun, -, -, hb⟩ := programWord_first a v s st e₁ hattempt
  rw [hbusy] at hrun
  exact ⟨b, poll, step, hrun, hb⟩

variable (hfailed : evalNvmStatus st = .failed)
include hfailed

/-- ProgramWord (R221) whose second attempt reads a clean status word back. -/
theorem programWord_second_done {st₂ : Word} {e₂ : Nat}
    (hsecond : programAttempt s.bus e₁ = some (st₂, e₂)) (hdone : evalNvmStatus st₂ = .done) :
    Drains s (.done (st₂, 2)) st₂ true 70#32
      (attemptActions s.bus 0 a v ++ attemptActions s.bus e₁ a v) (programWord a v s) := by
  obtain ⟨b, poll, step, hrun, hb⟩ := programWord_second a v s st st₂ e₁ e₂ hattempt hfailed hsecond
  rw [hdone] at hrun
  exact ⟨b, poll, step, hrun, hb⟩

/-- ProgramWord (R221) whose second status word is still busy. -/
theorem programWord_second_unconfirmed {st₂ : Word} {e₂ : Nat}
    (hsecond : programAttempt s.bus e₁ = some (st₂, e₂)) (hbusy : evalNvmStatus st₂ = .unconfirmed) :
    Drains s (.raised (unconfirmedError a st₂)) st₂ true 70#32
      (attemptActions s.bus 0 a v ++ attemptActions s.bus e₁ a v) (programWord a v s) := by
  obtain ⟨b, poll, step, hrun, hb⟩ := programWord_second a v s st st₂ e₁ e₂ hattempt hfailed hsecond
  rw [hbusy] at hrun
  exact ⟨b, poll, step, hrun, hb⟩

/-- ProgramWord (R221) whose second drain meets no handshake bit: the attempt sees the answers from where
the first ended. -/
theorem programWord_second_noHandshake {e : Nat} (he : injectionsEnd s.bus 35 e₁ = some e)
    (hd : drainPracc s.bus e = false) :
    Drains s (.raised (framingError (drainWord s.bus e))) (drainWord s.bus e) false 70#32
      (attemptActions s.bus 0 a v ++ attemptActions s.bus e₁ a v) (programWord a v s) := by
  obtain ⟨b₁, poll₁, step₁, hfirst, -, hpulses, hb₁⟩ := programWord_first a v s st e₁ hattempt
  rw [hfailed] at hfirst
  have hanswer : ∀ i, b₁.answer i = s.bus.answer (e₁ + i) := fun i => by
    rw [hb₁.did.answer, hpulses]
  have hzero : ∀ i, b₁.answer (0 + i) = s.bus.answer (e₁ + i) := fun i => by
    rw [Nat.zero_add, hanswer]
  obtain ⟨m, hm, hme⟩ := injectionsEnd_some_from hanswer he
  have hlate : ∀ i, b₁.answer (m + i) = s.bus.answer (e + i) := fun i => by
    rw [hanswer, ← hme, Nat.add_assoc]
  have hcount : s.injCount + 35#32 + 35#32 = s.injCount + 70#32 := BitVec.add_assoc _ _ _
  obtain ⟨b, poll, step, hsecond, hb⟩ := programAttempts_noHandshake a v 0
    (s.wired b₁ poll₁ { value := st, pracc := true } (s.injCount + 35#32) step₁) m hm
    ((drainPracc_shift hlate).trans hd)
  simp only [wired_bus, wired_wired, wired_injCount, drainWord_shift hlate, hcount, hb₁.rst_eq,
    attemptActions, injectionsActions_shift hzero] at hsecond hb
  exact ⟨b, poll, step, hfirst.trans hsecond, hb₁.trans_sel hb⟩

end programWord

/-- ProgramWord (R221) whose first drain meets no handshake bit: never retried. -/
theorem programWord_first_noHandshake {a v : Word} {s : State} {e : Nat}
    (he : injectionsEnd s.bus 35 0 = some e) (hd : drainPracc s.bus e = false) :
    Drains s (.raised (framingError (drainWord s.bus e))) (drainWord s.bus e) false 35#32
      (attemptActions s.bus 0 a v) (programWord a v s) :=
  programAttempts_noHandshake a v 1 { s with poll := { s.poll with attempt := 0 } } e he hd

/-! ### The statements -/

/-- Settles O21: the word read is ARG1, so the comparison of R223 ends OK with both. -/
theorem verifyWordCompletes : Obligations.VerifyWordCompletes := by
  intro s e ha he hd hexpected
  have hread := readFlashData_done s.arg0 (s := s.accepted 0x09#8) he hd
  exact ⟨_, (checks_verifyWord s).exec_accepted ha rfl,
    (hread.done_andThen fun _ _ _ _ _ => if_pos hexpected).okEnd⟩

/-- Settles O30: with bit 15 set the status word is "unconfirmed", which R225 raises for ARG1. -/
theorem flashOperationUnconfirmedRaises : Obligations.FlashOperationUnconfirmedRaises := by
  intro s e ha he hd hbusy
  have hstatus := flashOperation_done s.arg0 s.arg1 s.arg2 (s := s.accepted 0x0B#8) he hd
  exact ⟨_, (checks_flashOperation s).exec_accepted ha rfl,
    (hstatus.done_andThen (result := .raised (unconfirmedError s.arg1 (drainWord s.bus e)))
      fun _ _ _ _ _ => if_pos (evalNvmStatus_unconfirmed.mpr hbusy)).errorEnd rfl⟩

/-- An accepted PROGRAM_WORD is ProgramWord of ARG0 and ARG1, ended (R212, R221). -/
theorem exec_programWord_accepted {s : State} (ha : Accepted .programWord s) :
    exec .programWord s = .next (finish 0x07#8
      ((programWord s.arg0 s.arg1 (s.accepted 0x07#8)).andThen statusAndCount)) :=
  (checks_programWord s).exec_accepted ha rfl

/-- Settles O26: a failed first attempt is repeated, and a clean second one ends OK with the count 2. -/
theorem programWordSecondAttempt : Obligations.ProgramWordSecondAttempt := by
  intro s st₁ st₂ e₁ e₂ ha hfirst hconfirmed herror hsecond hclean
  have hrun := programWord_second_done (s := s.accepted 0x07#8) (a := s.arg0) (v := s.arg1) hfirst
    (evalNvmStatus_failed hconfirmed herror) hsecond (evalNvmStatus_done hclean)
  exact ⟨_, exec_programWord_accepted ha, (hrun.done_andThen fun _ _ _ _ _ => rfl).okEnd⟩

/-- Settles O28: bit 15 is tested before the error bits (R248), in either attempt. -/
theorem programWordUnconfirmedRaises : Obligations.ProgramWordUnconfirmedRaises := by
  constructor
  · intro s st e ha hattempt hbusy
    have hrun := programWord_first_unconfirmed (s := s.accepted 0x07#8) (a := s.arg0) (v := s.arg1)
      hattempt (evalNvmStatus_unconfirmed.mpr hbusy)
    exact ⟨_, exec_programWord_accepted ha, (hrun.raised_andThen _).errorEnd rfl⟩
  · intro s st₁ st₂ e₁ e₂ ha hfirst hconfirmed herror hsecond hbusy
    have hrun := programWord_second_unconfirmed (s := s.accepted 0x07#8) (a := s.arg0) (v := s.arg1)
      hfirst (evalNvmStatus_failed hconfirmed herror) hsecond (evalNvmStatus_unconfirmed.mpr hbusy)
    exact ⟨_, exec_programWord_accepted ha, (hrun.raised_andThen _).errorEnd rfl⟩

/-- Settles O31: each command but DOWNLOAD_DATA is the dispatcher over a procedure that ends in the drain;
IDENTIFY has dropped the identity before it. -/
theorem drainWithoutHandshakeRaises : Obligations.DrainWithoutHandshakeRaises := by
  constructor
  · intro i s c ws e ha hi hdrains he hd
    unfold injects at hi
    split at hi <;> cases hi
    case h_1 => -- IDENTIFY (R210, R220)
      have hrun := readFlashData_noHandshake 0xBF80F220#32
        (s := ({ s with ident := { s.ident with valid := false } } : State).accepted 0x06#8) he hd
      exact ⟨_, (checks_identify s).exec_accepted ha rfl,
        ((hrun.raised_andThen _).raised_andThen _).errorEnd rfl⟩
    case h_2 => -- PROGRAM_WORD (R221)
      have hrun := programWord_first_noHandshake (s := s.accepted 0x07#8) (a := s.arg0) (v := s.arg1) he hd
      exact ⟨_, exec_programWord_accepted ha, (hrun.raised_andThen _).errorEnd rfl⟩
    case h_3 => -- READ_WORD (R222)
      have hrun := readFlashData_noHandshake s.arg0 (s := s.accepted 0x08#8) he hd
      exact ⟨_, exec_readWord_accepted ha, (hrun.raised_andThen _).errorEnd rfl⟩
    case h_4 => -- VERIFY_WORD (R223)
      have hrun := readFlashData_noHandshake s.arg0 (s := s.accepted 0x09#8) he hd
      exact ⟨_, (checks_verifyWord s).exec_accepted ha rfl, (hrun.raised_andThen _).errorEnd rfl⟩
    case h_5 => -- DOWNLOAD_DATA (R224) has no drain
      exact absurd rfl hdrains
    case h_6 => -- FLASH_OPERATION (R225)
      have hrun := flashOperation_noHandshake s.arg0 s.arg1 s.arg2 (s := s.accepted 0x0B#8) he hd
      exact ⟨_, (checks_flashOperation s).exec_accepted ha rfl, (hrun.raised_andThen _).errorEnd rfl⟩
  · intro s st e₁ e ha hattempt hconfirmed herror he hd
    have hrun := programWord_second_noHandshake (s := s.accepted 0x07#8) (a := s.arg0) (v := s.arg1)
      hattempt (evalNvmStatus_failed hconfirmed herror) he hd
    exact ⟨_, exec_programWord_accepted ha, (hrun.raised_andThen _).errorEnd rfl⟩

end Sys2Proof.Machine
end

section
/-! The host commands that only read or change the error latch (R212 to R214, R252), and the two errors that
keep the device state: VerifyMismatch and NvmControllerError (R221, R223, R243, R245, R250). -/

namespace Sys2Proof.Machine

/-! ### The errors after a drain that keep the device state (R250) -/

/-- A command whose body drained and raised an error other than BusTimeout and ProtocolFraming takes it and
keeps the device state (R212 step 5, R250). -/
theorem Drains.errorEnd_kept {s : State} {word count : Word} {pracc : Bool} {as : List Action} {c : Byte}
    {e : RaiseInfo} {r : Ran (Word × Word)} (hkeeps : dropsDev e.kind = false)
    (h : Drains (s.accepted c) (.raised e) word pracc count as r) :
    ErrorEnd s (finish c r) e.kind.toCode c e.addr e.obs e.exp count ∧ DeviceKept s (finish c r) ∧
      (finish c r).res = { value := word, pracc := pracc } ∧
      DidScans s.bus (finish c r).bus as s.bus.pins.rst ∧
      (AtIdle s.bus → ShadowAt (finish c r).bus (ir5 0x0E#32) s.bus.tapSel) := by
  obtain ⟨b, poll, step, rfl, hb⟩ := h
  rw [accepted_injCount, BitVec.zero_add]
  exact ⟨errorEnd_wired, raise_kept _ _ _ hkeeps, raise_res _ _ _,
    by rw [finish, raise_bus]; exact hb.didScans, by rw [finish, raise_bus]; exact hb.idle⟩

/-- ProgramWord (R221) whose second attempt failed like the first: no attempt is left (NVM_RETRY_MAX). -/
theorem programWord_second_failed {a v st₁ st₂ : Word} {s : State} {e₁ e₂ : Nat}
    (hfirst : programAttempt s.bus 0 = some (st₁, e₁)) (hfailed₁ : evalNvmStatus st₁ = .failed)
    (hsecond : programAttempt s.bus e₁ = some (st₂, e₂)) (hfailed₂ : evalNvmStatus st₂ = .failed) :
    Drains s (.raised ⟨.nvmControllerError, a, st₂, 0#32⟩) st₂ true 70#32
      (attemptActions s.bus 0 a v ++ attemptActions s.bus e₁ a v) (programWord a v s) := by
  obtain ⟨b, poll, step, hrun, hb⟩ := programWord_second a v s st₁ st₂ e₁ e₂ hfirst hfailed₁ hsecond
  rw [hfailed₂] at hrun
  exact ⟨b, poll, step, hrun, hb⟩

/-! ### The statements -/

/-- Settles O22: the word read is not ARG1, so the comparison of R223 raises VerifyMismatch. -/
theorem verifyWordMismatchRaises : Obligations.VerifyWordMismatchRaises := by
  intro s e ha he hd hdiffers
  have hread := readFlashData_done s.arg0 (s := s.accepted 0x09#8) he hd
  exact ⟨_, (checks_verifyWord s).exec_accepted ha rfl,
    (hread.done_andThen
      (result := .raised ⟨.verifyMismatch, s.arg0, drainWord s.bus e, s.arg1⟩)
      fun _ _ _ _ _ => if_neg hdiffers).errorEnd_kept rfl⟩

/-- Settles O27: both attempts failed, and the error of the second is taken. -/
theorem programWordFailsTwice : Obligations.ProgramWordFailsTwice := by
  intro s st₁ st₂ e₁ e₂ ha hfirst hconfirmed₁ herror₁ hsecond hconfirmed₂ herror₂
  have hrun := programWord_second_failed (s := s.accepted 0x07#8) (a := s.arg0) (v := s.arg1) hfirst
    (evalNvmStatus_failed hconfirmed₁ herror₁) hsecond (evalNvmStatus_failed hconfirmed₂ herror₂)
  exact ⟨_, exec_programWord_accepted ha, (hrun.raised_andThen _).errorEnd_kept rfl⟩

/-- Settles O44: every host command is the dispatcher over its own checks, and `Checks.sessionFatal` says how
the dispatcher answers with the latch set, before it looks at the state or the operands. -/
theorem sessionFatalRefuses : Obligations.SessionFatalRefuses := by
  intro i c s hi hfatal hpass
  obtain ⟨op, argsOk, body, hexec, hchecks⟩ := exec_command s i c hi
  rw [hexec, hchecks.sessionFatal hfatal hpass]

/-- NOP is accepted in every state and does nothing but respond (R212, R213). -/
theorem exec_nop (s : State) : exec .nop s = .next (respond 0#4 0#32 0#32 (s.accepted 0x00#8)) :=
  (checks_nop s).exec_accepted ⟨fun _ => rfl, rfl, rfl⟩ rfl

/-- Settles O10: the latch lets NOP through, and `respond` leaves the state of the statement. -/
theorem nopCompletes : Obligations.NopCompletes := exec_nop

/-- Settles O11: the latch lets CLEAR_ERROR through, and `respond` after `clearLatch` leaves the state of the
statement. -/
theorem clearErrorCompletes : Obligations.ClearErrorCompletes := exec_clearError

end Sys2Proof.Machine
end

section
/-! What taking an error leaves (R250, R251, R253): the latch, the report and the device state, read off the
three ends of `exec_ends`. -/

namespace Sys2Proof.Machine

/-! ### The error a raise reports (R250) -/

/-- The errors that drop the device state are the two of the lowest codes (R101, R250). -/
theorem dropsDev_iff (k : ErrorKind) : dropsDev k = true ↔ k.toCode.toNat ≤ 2 := by
  cases k <;> decide

/-- What a raise latches is what it reports: the code of RSP, the values of RES0 and RES1 (R98, R250). -/
theorem raised_as_reported (c : Byte) (e : RaiseInfo) (s : State) :
    Raised (raise c e s) ((raise c e s).rsp.setWidth 4) c (raise c e s).err.addr (raise c e s).res0
      (raise c e s).res1 := by
  obtain ⟨-, herr, hrsp, hres0, hres1, -, -⟩ := raised_raise c e s
  have hcode : (raise c e s).rsp.setWidth 4 = e.kind.toCode := by
    rw [hrsp]; exact BitVec.setWidth_setWidth_of_le _ (by decide)
  rw [hcode, herr, hres0, hres1]
  exact raised_raise c e s

/-- Codes 1 and 2 drop the device state and the identity (R250). -/
theorem raise_dropped_of_rsp {c : Byte} {e : RaiseInfo} {s : State}
    (hcode : (raise c e s).rsp.toNat ≤ 2) : DeviceDropped s (raise c e s) :=
  raise_dropped c e s ((dropsDev_iff e.kind).mpr (raise_rsp_toNat c e s ▸ hcode))

/-- Codes 3 to 5 keep them (R250). -/
theorem raise_kept_of_rsp {c : Byte} {e : RaiseInfo} {s : State}
    (hcode : 3 ≤ (raise c e s).rsp.toNat) : DeviceKept s (raise c e s) := by
  refine raise_kept c e s (Bool.eq_false_iff.mpr fun hdrops => ?_)
  have hle := (dropsDev_iff e.kind).mp hdrops
  rw [raise_rsp_toNat] at hcode
  omega

/-! ### The statement -/

/-- Settles O48: a refusal and an OK end report no error and keep the latch, but for CLEAR_ERROR; an error is
taken only by a command that the latch would have refused. -/
theorem errorsAreTaken : Obligations.ErrorsAreTaken := by
  intro i c s t hi he
  obtain ⟨code, hcode, hend⟩ | ⟨-, r, u, hend, hbody⟩ | ⟨ha, e, u, hend, hbody⟩ :=
      exec_ends (s := s) hi <;>
    obtain rfl := Host.Outcome.next.inj (hend.symm.trans he)
  · have hnoError : ¬ (1 ≤ code.toNat ∧ code.toNat ≤ 5) := by obtain rfl | rfl | rfl := hcode <;> decide
    exact ⟨fun h => absurd h hnoError, fun _ _ => ⟨rfl, rfl⟩⟩
  · obtain ⟨-, hlatch, -⟩ := hbody
    exact ⟨fun h => absurd h.1 (Nat.not_succ_le_zero 0), fun _ => hlatch⟩
  · obtain ⟨-, -, hdev, hpass, -⟩ := hbody
    have hrange := errorCode_range e.kind
    rw [← raise_rsp_toNat c e u] at hrange
    refine ⟨fun _ => ⟨ha.not_fatal hpass, raised_as_reported c e u, fun hdrops => ?_, fun hkeeps => ?_⟩,
      fun h => absurd hrange h⟩
    · obtain ⟨hunknown, hident⟩ := raise_dropped_of_rsp hdrops
      exact ⟨hunknown, congrArg Ident.valid hident⟩
    · exact (raise_kept_of_rsp hkeeps).1.trans hdev

end Sys2Proof.Machine
end

section
/-! The state after reset (R50) and the events that start the output trace (R281). -/

namespace Sys2Proof.Machine

/-- The nine events of reset, oldest first, with the levels of R281 in place of the parameters they come from. -/
theorem resetLog_reverse :
    resetLog.reverse =
      [.config .tms .output, .config .tdi .output, .config .tck .output, .config .rst .output,
       .config .tdo .input, .drive .tms true, .drive .tdi false, .drive .tck true, .drive .rst true] := rfl

/-- Reset leaves the clock at its idle level, high, and target reset released (R50). -/
theorem reset_pins :
    State.reset.bus.pins = { tms := true, tdi := false, tck := true, rst := false } := rfl

/-- Settles O50: the trace is the log of reset in order; every other field is the value `State.reset` writes. -/
theorem resetState : Obligations.ResetState := by
  refine ⟨resetLog_reverse, reset_pins, ?_⟩
  simp only [State.reset, and_self]

end Sys2Proof.Machine
end
